-- ==== Sys2Proof/Word.lean ====
section
/-! DEFINITION. The word types of the operation interface (10_state.md R26). -/
namespace Sys2Proof

/-- u8: a frame byte, a CRC, a command code (R12, R26). Bit 7 is the high bit (R10). -/
abbrev Byte := BitVec 8

/-- s32 as its 32-bit two's-complement pattern; its integer value is `BitVec.toInt` (R12, R64). -/
abbrev S32 := BitVec 32

/-- An IEEE 754 binary64 value as its bit pattern: bit 63 sign, bits 62..52 biased exponent,
bits 51..0 fraction (R13, R71; spec decision D4, log entry 4). -/
abbrev F64 := BitVec 64

end Sys2Proof
end

