-- ==== Sys2Proof/Config.lean ====
section
/-! DEFINITION. The fixed constants (00_scope.md R8) and the parameters (R9) of the block and its host. -/
namespace Sys2Proof.Config

/-- SOF, frame byte 0 (R8, R62). -/
abbrev sof : Byte := 0xAA

/-- EOF, frame byte 8 (R8, R67). -/
abbrev eof : Byte := 0x55

/-- FRAME_LEN (R8, R68). -/
abbrev frameLen : Nat := 9

/-- SCALE, the fixed-point scale factor (R8). -/
abbrev scale : Nat := 1000

/-- CRC_POLY, x^8 + x^2 + x + 1 with the x^8 term implicit (R8, R103). -/
abbrev crcPoly : Byte := 0x07

/-- CRC_INIT (R8, R231). -/
abbrev crcInit : Byte := 0x00

/-- FLAG_BIT as a mask of the FLAGS byte (R8, R65). -/
abbrev flagMask : Byte := 0x01

/-- BAUD's default, the one transport parameter the source gives a value (R9, R212). -/
abbrev defaultBaud : Nat := 9600

end Sys2Proof.Config

namespace Sys2Proof

/-- SCALE_PRODUCT, how `value * 1000` is formed before truncation (R9, R123; spec decision D5).
The hardware uses one of the two; a claim about the hardware is a claim about both. -/
inductive ScaleProduct
  | binary64Rne  -- BINARY64_RNE, the default: a binary64 product, rounded to nearest even
  | exactReal    -- EXACT_REAL: the exact real product
  deriving DecidableEq, Repr

/-- The transport settings of one channel, host parameters the block never sees (R9, R212, R23).
`startupDelay` and `ioTimeout` are in abstract time units: the spec leaves both values open (D19). -/
structure HostParams where
  device       : String                    -- TRANSPORT_DEVICE
  baud         : Nat := Config.defaultBaud -- BAUD
  startupDelay : Nat                       -- STARTUP_DELAY
  ioTimeout    : Nat                       -- IO_TIMEOUT
  deriving DecidableEq, Repr

end Sys2Proof
end

