-- ==== Sys2Proof/Syntax.lean ====
section
/-! DEFINITION. The five operations, the raw operation request, and the actions of a host program. -/
namespace Sys2Proof

/-- An operation with its operands at their own widths, one constructor per row of the opcode table
(30_encoding.md R70, R71; 10_state.md R26). A binary64 operand is its bit pattern. -/
inductive Instr
  | crc8 (data : List Byte)
  | scaleEnc (fval : F64)
  | scaleDec (fx : S32)
  | encode (cmd : Byte) (fval : F64) (flag : Bool)
  | decode (buf : List Byte)
  deriving DecidableEq, Repr

/-- A request as the host writes it (R70, R77: `op=<n> <operand>=<value> …`): the select `op` and the
input side of the operation interface (R26), each value a mathematical integer (R12) that has not yet
been checked against its admitted form. An operand the operation does not read is ignored. -/
structure Request where
  op   : Nat
  data : List Nat := []
  fval : Nat := 0
  fx   : Int := 0
  cmd  : Nat := 0
  flag : Nat := 0
  buf  : List Nat := []
  deriving DecidableEq, Repr

/-- One line of the host's program (R22, R77) or one interaction of the host with its transport (R217).
Result variables and channels are named by numbers (log entry 11). -/
inductive HostAction
  /-- Issue a request; the whole result goes to variable `dest` (R77). -/
  | request (dest : Nat) (req : Request)
  /-- `<dest> <- DECODE <variable>`: DECODE the bytes that variable `src` holds (R77). -/
  | decodeVar (dest src : Nat)
  /-- Open the transport of a channel (R234 step 1; R232); its settings are parameters of the step (R33). -/
  | openChannel (ch : Nat)
  /-- Let `time` abstract units pass after opening (R234 step 2; log entry 14). -/
  | wait (ch : Nat) (time : Nat)
  /-- Send the frame that variable `src` holds (R217, R234 step 3). -/
  | send (ch : Nat) (src : Nat)
  /-- The transport delivers one byte, of any value (R181, R188). -/
  | receive (ch : Nat) (byte : Byte)
  /-- The transport reports an open, write or read failure (R205). -/
  | transportError (ch : Nat)
  /-- The host releases the transport (R235). -/
  | closeChannel (ch : Nat)
  deriving DecidableEq, Repr

end Sys2Proof
end

