-- ==== Sys2Proof/WellFormed.lean ====
section
/-! DEFINITION. Which raw requests have operands in the admitted forms of R71 (U18, R209). An `Instr` needs no
check: its types admit nothing else. -/
namespace Sys2Proof

/-- Every element of a byte sequence is a u8 (R12, R71). -/
def bytesAdmitted (bs : List Nat) : Bool :=
  bs.all (· < 2 ^ 8)

/-- The integer is an s32 (R12). -/
def s32Admitted (n : Int) : Bool :=
  decide (-2 ^ 31 ≤ n) && decide (n ≤ 2 ^ 31 - 1)

/-- The request selects one of the eight OPSEL values, and each operand the operation reads has its admitted
form (R70, R71). A reserved OPSEL reads no operand (R73). -/
def Request.wellFormed (r : Request) : Bool :=
  match r.op with
  | 0 => bytesAdmitted r.data
  | 1 => decide (r.fval < 2 ^ 64)
  | 2 => s32Admitted r.fx
  | 3 => decide (r.cmd < 2 ^ 8) && decide (r.fval < 2 ^ 64) && decide (r.flag < 2)
  | 4 => bytesAdmitted r.buf
  | 5 | 6 | 7 => true
  | _ => false

end Sys2Proof
end

