-- ==== Sys2Proof/Decode.lean ====
section
/-! DEFINITION. The decoder of operation requests (30_encoding.md R70, R71, R73), the encoder, and the host's
reading of an opcode-table word. -/
namespace Sys2Proof

/-- Why a request decodes to no operation, by name. -/
inductive DecodeError
  /-- OPSEL 5, 6 or 7: the request completes with status ILLEGAL_OP (R73, R204). -/
  | reservedOpsel
  /-- The select is not a u3 (R26); not representable (U18). -/
  | opselNotU3
  /-- An element of `data` or `buf` is not a u8; not representable (U18). -/
  | byteNotU8
  /-- `fval` is not a 64-bit pattern; not representable (U18). -/
  | fvalNot64Bit
  /-- `fx` is not an s32; not representable (U18). -/
  | fxNotS32
  /-- `cmd` is not a u8; not representable (U18). -/
  | cmdNotU8
  /-- `flag` is not 0 or 1; not representable (U18). -/
  | flagNotBit
  deriving DecidableEq, Repr

/-- Read a byte sequence, byte 0 first (R71). -/
def readBytes (bs : List Nat) : Except DecodeError (List Byte) :=
  if bytesAdmitted bs then .ok (bs.map (BitVec.ofNat 8)) else .error .byteNotU8

/-- Read a binary64 bit pattern (R71). -/
def readFval (n : Nat) : Except DecodeError F64 :=
  if n < 2 ^ 64 then .ok (BitVec.ofNat 64 n) else .error .fvalNot64Bit

/-- Read an s32 (R71). -/
def readFx (n : Int) : Except DecodeError S32 :=
  if s32Admitted n then .ok (BitVec.ofInt 32 n) else .error .fxNotS32

/-- Read a u8 command code; all 256 values are legal (R63, R71). -/
def readCmd (n : Nat) : Except DecodeError Byte :=
  if n < 2 ^ 8 then .ok (BitVec.ofNat 8 n) else .error .cmdNotU8

/-- Read the flag bit, 1 = true (R71). -/
def readFlag (n : Nat) : Except DecodeError Bool :=
  match n with
  | 0 => .ok false
  | 1 => .ok true
  | _ => .error .flagNotBit

/-- Decode a request: select by OPSEL (R70), then read the operands of that operation at their own widths, in
the order of R71. A reserved OPSEL is decided before any operand is read (R73, R206). -/
def decodeRequest (r : Request) : Except DecodeError Instr :=
  match r.op with
  | 0 => do
    let data ← readBytes r.data
    return .crc8 data
  | 1 => do
    let fval ← readFval r.fval
    return .scaleEnc fval
  | 2 => do
    let fx ← readFx r.fx
    return .scaleDec fx
  | 3 => do
    let cmd ← readCmd r.cmd
    let fval ← readFval r.fval
    let flag ← readFlag r.flag
    return .encode cmd fval flag
  | 4 => do
    let buf ← readBytes r.buf
    return .decode buf
  | 5 | 6 | 7 => .error .reservedOpsel
  | _ => .error .opselNotU3

/-- The raw values of a byte sequence. -/
def bytesToNats (bs : List Byte) : List Nat :=
  bs.map BitVec.toNat

/-- The request of an operation, written from the tables of R70 and R71; operands it does not have are left
at zero or empty. -/
def encodeRequest : Instr → Request
  | .crc8 data => { op := 0, data := bytesToNats data }
  | .scaleEnc fval => { op := 1, fval := fval.toNat }
  | .scaleDec fx => { op := 2, fx := fx.toInt }
  | .encode cmd fval flag => { op := 3, cmd := cmd.toNat, fval := fval.toNat, flag := if flag then 1 else 0 }
  | .decode buf => { op := 4, buf := bytesToNats buf }

/-- The request that a word of `nbits` bits selects: OPSEL is bits 2..0, matched under the mask 0b111 (R70), and
every operand is zero or empty. Bits above OPSEL belong to no field of the table (log entry 5). -/
def tableRequest (nbits w : Nat) : Request :=
  { op := w % 2 ^ nbits % 8 }

/-- What the decoder reads from an opcode-table word; none where it refuses. -/
def decodeTableWord (nbits w : Nat) : Option Instr :=
  (decodeRequest (tableRequest nbits w)).toOption

end Sys2Proof
end

