-- ==== Sys2Proof/Machine/Table.lean ====
section
/-! DEFINITION. A finite table from numbers to plain data in one canonical form: keys strictly rising. It holds the
host's result variables (R77), its channels (R30) and their settings (R9). -/
namespace Sys2Proof.Machine

/-- A table: pairs of a key and its entry, keys strictly rising (`tblWf`). -/
abbrev Tbl (α : Type) := List (Nat × α)

/-- The entry of a key, if the table lists it. -/
def tblFind {α : Type} : Tbl α → Nat → Option α
  | [], _ => none
  | (k, v) :: t, i => if i = k then some v else tblFind t i

/-- Write the entry of a key, keeping the keys rising. -/
def tblSet {α : Type} : Tbl α → Nat → α → Tbl α
  | [], i, v => [(i, v)]
  | (k, w) :: t, i, v =>
    if i < k then (i, v) :: (k, w) :: t
    else if i = k then (i, v) :: t
    else (k, w) :: tblSet t i v

/-- Apply a change to every entry, keeping the keys. -/
def tblMap {α : Type} (f : α → α) (t : Tbl α) : Tbl α :=
  t.map (fun e => (e.1, f e.2))

/-- The canonical form: keys strictly rising. -/
def tblWf {α : Type} : Tbl α → Bool
  | [] => true
  | (k, _) :: t => t.all (fun e => decide (k < e.1)) && tblWf t

end Sys2Proof.Machine
end

