-- ==== Sys2Proof/Machine/State.lean ====
section
/-! DEFINITION. The machine's state as plain data, its results, and why a step can stop. The block keeps no state
between operations (10_state.md R20); what stands here is the host's, the open parameter, and the output side of
the operation interface. -/
namespace Sys2Proof.Machine

/-- The typed errors of the codec (60_exceptions.md R200); none carries a value (D12). -/
inductive CodecError
  | framing     -- FramingError, status 1 (R201)
  | checksum    -- ChecksumError, status 2 (R202)
  | valueRange  -- ValueRangeError, status 3 (R203)
  | illegalOp   -- IllegalOp, status 4 (R204)
  deriving DecidableEq, Repr

/-- The Packet record of DECODE (10_state.md R27; C4). -/
structure Packet where
  cmd     : Byte
  value   : F64
  valueFx : S32
  flag    : Bool
  deriving DecidableEq, Repr

/-- The result field that exists when the status is OK, one per operation (R26, R72). -/
inductive Value
  | crc (c : Byte)
  | fxOut (fx : S32)
  | fvalOut (fval : F64)
  | frame (bytes : List Byte)
  | pkt (p : Packet)
  deriving DecidableEq, Repr

/-- A whole result: a status, and result fields only when it is OK (R26, R72). -/
inductive Result
  | ok (v : Value)
  | error (e : CodecError)
  deriving DecidableEq, Repr

/-- The life of a channel's transport session (R205, R235). -/
inductive Session
  | active  -- opened and not yet released
  | closed  -- released by the host
  | failed  -- ended by a TransportError, and released
  deriving DecidableEq, Repr

/-- One channel of the host: its transport session and its re-framer (R180, R213). -/
structure Channel where
  /-- Whether the session lives (R235). -/
  session : Session
  /-- Abstract time waited since the session was opened (R234, log entry 14). -/
  waited : Nat
  /-- The bytes handed to the transport, oldest first (R44, R217). -/
  sent : List Byte
  /-- The re-framer's receive buffer, unbounded (R30, R180). -/
  rbuf : List Byte
  /-- The packets delivered to the caller, oldest first (R182, R185). -/
  delivered : List Packet
  deriving DecidableEq, Repr

/-- What is configuration and not state: the parameters of the step relation (R33, R9). `runStep` takes them as an
argument, and no step can write them. -/
structure Setup where
  /-- SCALE_PRODUCT, fixed for the hardware (R123, R23). -/
  scaleProduct : ScaleProduct
  /-- The transport settings of each channel (R9, R212); an unlisted channel has none. -/
  transports : Tbl HostParams
  /-- The program: the host's ordered list of requests and transport actions (R22). -/
  program : List HostAction
  deriving DecidableEq, Repr

/-- What a step can change: the state proper (INVENTORY.md, heading State; log entries 1 and 3). -/
structure Live where
  /-- The host's index into that list (R22). -/
  pc : Nat
  /-- The host's result variables (R77); an unlisted variable holds no result (R32). -/
  vars : Tbl Result
  /-- The host's channels (R180); an unlisted channel was never opened. -/
  channels : Tbl Channel
  /-- The output side of the operation interface: a result exists only within a transaction (R26, R32). -/
  out : Option Result
  deriving DecidableEq, Repr

/-- One machine under its parameters. The host's interface wants `step` as a function of one State, so the two stand
side by side here; `runStep` keeps them apart (log entry 1). -/
structure State extends Setup, Live
  deriving DecidableEq, Repr

/-- Faults. There are none: an error is an operation's result, never a trap or a stuck state (R207, R209). -/
inductive Fault
  deriving DecidableEq, Repr

/-- Why the model gives a step no meaning. Every one is safe: the model stops where it knows no effect. -/
inductive Refusal
  /-- Raised by an arm of `exec` whose instruction has no meaning yet; no arm does. Safe. -/
  | notModelled (mnemonic : String)
  /-- Raised by a step whose request has an operand outside its admitted form, or a select that is no u3: it
  cannot be represented, and the block has no behaviour for it (R209, U18). Safe. -/
  | operandNotAdmitted (why : DecodeError)
  /-- Raised by a step that reads a host variable before any operation has put a result there (R32, U17). Safe. -/
  | noResultToRead
  /-- Raised by a step that needs the bytes of a host variable whose result holds no byte sequence (R77, U6). Safe. -/
  | variableHoldsNoBytes
  /-- Raised by a step that waits on, sends to or receives from a channel with no active session: the transport
  is external and the spec gives no effect (R213). Safe. -/
  | channelNotOpen
  /-- Raised by a step that opens a channel for which the parameters give no transport settings: a transport is opened
  with its configuration (R234). Safe. -/
  | noTransportSettings
  deriving DecidableEq, Repr

/-- Right after reset: the block has nothing to set (R230), no result exists (R32), no channel has been opened
(R180), and SCALE_PRODUCT has its default (R9, log entry 2). The empty program, index 0 and the empty table of
transport settings are DESIGN CHOICE (log entry 6). -/
def State.reset : State :=
  { scaleProduct := .binary64Rne
    transports := []
    program := []
    pc := 0
    vars := []
    channels := []
    out := none }

/-- The three outcomes of a step of this machine. -/
abbrev Outcome := Host.Outcome State Fault Refusal

/-- The three outcomes of a step under given parameters. -/
abbrev LiveOutcome := Host.Outcome Live Fault Refusal

end Sys2Proof.Machine
end

