-- ==== Sys2Proof/Machine/Float.lean ====
section
/-! DEFINITION. The binary64 primitives of 00_scope.md R13: `is_finite`, `fmul64`, `fdiv64`, `to_f64` and `trunc0`, and
the reading of decimal literals (R77). A finite magnitude is an exact natural number of units of 2^-1074. -/
namespace Sys2Proof.Machine

/-- Bit 63 (R71). -/
def signBit (x : F64) : Bool :=
  x.getLsbD 63

/-- Bits 62..52, the biased exponent (R71). -/
def expField (x : F64) : Nat :=
  (x.extractLsb' 52 11).toNat

/-- Bits 51..0, the fraction (R71). -/
def fraction (x : F64) : Nat :=
  (x.extractLsb' 0 52).toNat

/-- `is_finite`: false for NaN and for ±infinity, whose biased exponent is all ones (R13). -/
def isFinite (x : F64) : Bool :=
  expField x != 2047

/-- How many units of 2^-1074, the least positive binary64, make the real number 1. -/
def unitsPerOne : Nat :=
  2 ^ 1074

/-- The magnitude of a finite binary64 in units of 2^-1074: exact, subnormals included (R13, `real`). -/
def units (x : F64) : Nat :=
  if expField x = 0 then fraction x else (2 ^ 52 + fraction x) * 2 ^ (expField x - 1)

/-- The integer nearest to n/d, ties to even (d > 0). -/
def roundHalfEven (n d : Nat) : Nat :=
  if 2 * (n % d) < d then n / d
  else if d < 2 * (n % d) then n / d + 1
  else if n / d % 2 = 0 then n / d
  else n / d + 1

/-- The exponent and fraction bits of the binary64 magnitude nearest to n/d units, ties to even, as one number; a
carry out of the fraction raises the exponent. At or above `infPattern` the magnitude has overflowed. -/
def roundPattern (n d : Nat) : Nat :=
  let k := Nat.log2 (n / d) - 52
  k * 2 ^ 52 + roundHalfEven n (d * 2 ^ k)

/-- The exponent and fraction bits of infinity. -/
def infPattern : Nat :=
  2047 * 2 ^ 52

/-- A binary64 from its sign and rounded magnitude bits; an overflow is infinity (R120). -/
def packF64 (neg : Bool) (pattern : Nat) : F64 :=
  BitVec.ofNat 64 ((if neg then 2 ^ 63 else 0) + min pattern infPattern)

/-- `fmul64`: the binary64 product rounded to nearest, ties to even (R13). The rules apply it to finite operands
only (R120 checks first; log entry 21). -/
def fmul64 (a b : F64) : F64 :=
  packF64 (signBit a ^^ signBit b) (roundPattern (units a * units b) unitsPerOne)

/-- `fdiv64`: the binary64 quotient rounded to nearest, ties to even (R13). The rules apply it to finite operands
and the divisor 1000.0 only (R125; log entry 21). -/
def fdiv64 (a b : F64) : F64 :=
  packF64 (signBit a ^^ signBit b) (roundPattern (units a * unitsPerOne) (units b))

/-- The binary64 nearest to ±n/d, ties to even (R77, decimal literals). -/
def f64OfRatio (neg : Bool) (n d : Nat) : F64 :=
  packF64 neg (roundPattern (n * unitsPerOne) d)

/-- `to_f64`: the binary64 value of an integer, exact for |n| ≤ 2^53 (R13). -/
def toF64 (n : Int) : F64 :=
  f64OfRatio (decide (n < 0)) n.natAbs 1

/-- `trunc0` of the real ±n/d: the integer part, rounded toward zero (R13, R121). -/
def trunc0 (neg : Bool) (n d : Nat) : Int :=
  if neg then -((n / d : Nat) : Int) else ((n / d : Nat) : Int)

end Sys2Proof.Machine
end

