-- ==== Sys2Proof/Machine/Operands.lean ====
section
/-! DEFINITION. The operand forms: byte sequences (00_scope.md R11) and the VALUE field (30_encoding.md R64). -/
namespace Sys2Proof.Machine

/-- `d{i}`: byte i of d, counted from 0 (R11). The rules read it in range only. -/
def byteAt (d : List Byte) (i : Nat) : Byte :=
  d.getD i 0

/-- `d{a..b}`: bytes a to b, both inclusive; empty when a > b (R11, R182). -/
def slice (d : List Byte) (a b : Nat) : List Byte :=
  (d.drop a).take (b + 1 - a)

/-- `le_bytes32`: the four bytes of an s32, least significant first (R64, R41). -/
def leBytes32 (n : S32) : List Byte :=
  [n.extractLsb' 0 8, n.extractLsb' 8 8, n.extractLsb' 16 8, n.extractLsb' 24 8]

/-- `int32_le`: the s32 of four bytes, least significant first (R64, R41). -/
def int32Le (b : List Byte) : S32 :=
  BitVec.ofNat 32
    ((byteAt b 0).toNat + 2 ^ 8 * (byteAt b 1).toNat + 2 ^ 16 * (byteAt b 2).toNat + 2 ^ 24 * (byteAt b 3).toNat)

/-- The bytewise XOR of two byte sequences (R106). -/
def xorBytes (d e : List Byte) : List Byte :=
  List.zipWith (· ^^^ ·) d e

/-- The bytes of a result, if it holds a byte sequence: only an OK ENCODE does (R26, R77). -/
def resultBytes : Result → Option (List Byte)
  | .ok (.frame bytes) => some bytes
  | .ok (.crc _) | .ok (.fxOut _) | .ok (.fvalOut _) | .ok (.pkt _) => none
  | .error _ => none

end Sys2Proof.Machine
end

