-- ==== Sys2Proof/Machine/Flags.lean ====
section
/-! DEFINITION. The two flag-like values (10_state.md R24): the status of a result and the FLAGS byte of a frame. -/
namespace Sys2Proof.Machine

/-- The status code of an error (R72, R200). -/
def errorCode : CodecError → BitVec 3
  | .framing => 1
  | .checksum => 2
  | .valueRange => 3
  | .illegalOp => 4

/-- The status of a result: 0 is OK (R72). -/
def statusCode : Result → BitVec 3
  | .ok _ => 0
  | .error e => errorCode e

/-- The FLAGS byte ENCODE writes: bits 7..1 always zero (R65, R140). -/
def flagsByte (flag : Bool) : Byte :=
  if flag then 0x01 else 0x00

/-- The flag DECODE reads: bit 0 of FLAGS, bits 7..1 ignored (R65, R74). -/
def flagOf (flags : Byte) : Bool :=
  flags &&& Config.flagMask != 0

end Sys2Proof.Machine
end

