-- ==== Sys2Proof/Machine/Ops.lean ====
section
/-! DEFINITION. The shared operations over the state: completing an operation with a value or an error, and the
host's bookkeeping around it. -/
namespace Sys2Proof.Machine

/-- Put a result on the output side of the operation interface (R26). -/
def State.complete (r : Result) (s : State) : State :=
  { s with out := some r }

/-- `return v`: the operation completes with status OK and result v (R14). -/
def returnValue (v : Value) (s : State) : Outcome :=
  .next (s.complete (.ok v))

/-- `raise E`: the operation completes with the error status E and no result (R14, R26). This is all an error
does: it saves no state, transfers control nowhere and masks nothing (R207), so there is no return from it (R208). -/
def raise (e : CodecError) (s : State) : Outcome :=
  .next (s.complete (.error e))

/-- The result of what an operation's rule answers: its value, or the error it raises (R14). -/
def toResult : Except CodecError Value → Result
  | .ok v => .ok v
  | .error e => .error e

/-- Complete with what an operation's rule answers: `returnValue` of its value, or `raise` of its error (R14, R16). -/
def finish (r : Except CodecError Value) (s : State) : Outcome :=
  .next (s.complete (toResult r))

/-- The host's index moves to the next line (R22). -/
def Live.advance (m : Live) : Live :=
  { m with pc := m.pc + 1 }

/-- The host takes the result of a completed request: it goes to variable `dest` whole (R77), the interface holds
it no longer (R26), and the index moves on whatever the status (R22). -/
def Live.retire (dest : Nat) (m : Live) : Live :=
  match m.out with
  | none => m.advance
  | some r => { m with vars := tblSet m.vars dest r, out := none, pc := m.pc + 1 }

/-- Retire the request an outcome completes. -/
def retireOutcome (dest : Nat) : Outcome → LiveOutcome
  | .next s => .next (s.toLive.retire dest)
  | .fault f => .fault f
  | .refused r => .refused r

/-- A machine's outcome under its parameters, which stay as they are (R33). -/
def underSetup (p : Setup) : LiveOutcome → Outcome
  | .next m => .next ⟨p, m⟩
  | .fault f => .fault f
  | .refused r => .refused r

/-- Write one channel's record (R30: one buffer per channel). -/
def Live.putChannel (ch : Nat) (c : Channel) (m : Live) : Live :=
  { m with channels := tblSet m.channels ch c }

/-- Apply a change to an open channel and move on; a channel with no active session refuses (log entry 13). -/
def onOpenChannel (ch : Nat) (f : Channel → Channel) (m : Live) : LiveOutcome :=
  match tblFind m.channels ch with
  | some c => if c.session = .active then .next (m.putChannel ch (f c)).advance else .refused .channelNotOpen
  | none => .refused .channelNotOpen

end Sys2Proof.Machine
end

