-- ==== Sys2Proof/Machine/Crc8.lean ====
section
/-! DEFINITION. The crc8_engine unit (40_crc8_engine.md). -/
namespace Sys2Proof.Machine

/-- `crc_bit_step`: one shift of the CRC register (R100). -/
def crcBitStep (c : Byte) : Byte :=
  if c.getLsbD 7 then (c <<< 1) ^^^ Config.crcPoly else c <<< 1

/-- `crc_byte_step`: absorb one input byte (R101). -/
def crcByteStep (c b : Byte) : Byte :=
  crcBitStep^[8] (c ^^^ b)

/-- The CRC8 of a byte sequence, byte 0 first (R102). ENCODE and DECODE call this one function (R104). -/
def crc8 (data : List Byte) : Byte :=
  data.foldl crcByteStep Config.crcInit

/-- CRC8: checksum a byte sequence; it never fails (R102). -/
def execCrc8 (data : List Byte) (s : State) : Outcome :=
  returnValue (.crc (crc8 data)) s

end Sys2Proof.Machine
end

