-- ==== Sys2Proof/Machine/Scaler.lean ====
section
/-! DEFINITION. The fixed_point_scaler unit (41_fixed_point_scaler.md). -/
namespace Sys2Proof.Machine

/-- 1000.0 as a binary64 (R120, R125): `toF64 Config.scale`, its bit pattern written out. -/
def scaleF64 : F64 :=
  0x408F400000000000

/-- The range check, on the truncated integer and nothing else (R122, D24). -/
def fitS32 (t : Int) : Except CodecError S32 :=
  if t < -2 ^ 31 ∨ 2 ^ 31 - 1 < t then .error .valueRange else .ok (BitVec.ofInt 32 t)

/-- SCALE_ENC's rule: multiply by 1000, truncate toward zero, check the range (R120, R121, R123). -/
def scaleEncode (mode : ScaleProduct) (fval : F64) : Except CodecError S32 :=
  if isFinite fval then
    match mode with
    | .binary64Rne =>
      let p := fmul64 fval scaleF64
      if isFinite p then fitS32 (trunc0 (signBit p) (units p) unitsPerOne) else .error .valueRange
    | .exactReal => fitS32 (trunc0 (signBit fval) (units fval * Config.scale) unitsPerOne)
  else .error .valueRange

/-- SCALE_DEC's rule: divide by 1000.0 (R125). -/
def scaleDecode (fx : S32) : F64 :=
  fdiv64 (toF64 fx.toInt) scaleF64

/-- SCALE_ENC: convert a float to the s32 fixed-point value (R120). -/
def execScaleEnc (fval : F64) (s : State) : Outcome :=
  finish ((scaleEncode s.scaleProduct fval).map .fxOut) s

/-- SCALE_DEC: convert an s32 fixed-point value to a float; it never fails (R125). -/
def execScaleDec (fx : S32) (s : State) : Outcome :=
  returnValue (.fvalOut (scaleDecode fx)) s

end Sys2Proof.Machine
end

