-- ==== Sys2Proof/Machine/Decoder.lean ====
section
/-! DEFINITION. The packet_decoder unit (43_packet_decoder.md). -/
namespace Sys2Proof.Machine

/-- The Packet that the payload bytes of a frame carry (R160). -/
def framePacket (buf : List Byte) : Packet :=
  let fx := int32Le (slice buf 2 5)
  { cmd := byteAt buf 1
    value := scaleDecode fx
    valueFx := fx
    flag := flagOf (byteAt buf 6) }

/-- DECODE's rule: length, then markers, then checksum; the first check that fails names the error (R160, R161). -/
def decodeFrame (buf : List Byte) : Except CodecError Packet :=
  if buf.length ≠ Config.frameLen then .error .framing
  else if byteAt buf 0 ≠ Config.sof ∨ byteAt buf 8 ≠ Config.eof then .error .framing
  else if crc8 (slice buf 1 6) ≠ byteAt buf 7 then .error .checksum
  else .ok (framePacket buf)

/-- DECODE: parse a byte sequence into a validated packet, or report a typed failure (R160). -/
def execDecode (buf : List Byte) (s : State) : Outcome :=
  finish ((decodeFrame buf).map .pkt) s

end Sys2Proof.Machine
end

