-- ==== Sys2Proof/Machine/Encoder.lean ====
section
/-! DEFINITION. The packet_encoder unit (42_packet_encoder.md). -/
namespace Sys2Proof.Machine

/-- The frame of a command, a fixed-point value and a FLAGS byte, with the CRC over bytes 1 to 6 (R61, R66). -/
def buildFrame (cmd : Byte) (fx : S32) (flags : Byte) : List Byte :=
  let span := [cmd] ++ leBytes32 fx ++ [flags]
  [Config.sof] ++ span ++ [crc8 span, Config.eof]

/-- ENCODE's rule: scale first, so that a ValueRangeError ends it before any byte exists (R140, R141). -/
def encodeFrame (mode : ScaleProduct) (cmd : Byte) (fval : F64) (flag : Bool) : Except CodecError (List Byte) :=
  match scaleEncode mode fval with
  | .error e => .error e
  | .ok fx => .ok (buildFrame cmd fx (flagsByte flag))

/-- ENCODE: build a 9-byte frame from a command code, a value and a flag (R140). -/
def execEncode (cmd : Byte) (fval : F64) (flag : Bool) (s : State) : Outcome :=
  finish ((encodeFrame s.scaleProduct cmd fval flag).map .frame) s

end Sys2Proof.Machine
end

