-- ==== Sys2Proof/Machine/Dispatch.lean ====
section
/-! DEFINITION. One arm per instruction: what an operation does (30_encoding.md R70). -/
namespace Sys2Proof.Machine

def exec (i : Instr) (s : State) : Host.Outcome State Fault Refusal :=
  match i with
  | .crc8 data => Sys2Proof.Machine.execCrc8 data s
  | .scaleEnc fval => Sys2Proof.Machine.execScaleEnc fval s
  | .scaleDec fx => Sys2Proof.Machine.execScaleDec fx s
  | .encode cmd fval flag => Sys2Proof.Machine.execEncode cmd fval flag s
  | .decode buf => Sys2Proof.Machine.execDecode buf s

end Sys2Proof.Machine
end

