-- ==== Sys2Proof/Machine/Reframer.lean ====
section
/-! DEFINITION. The host's stream re-framer (44_reframer.md). -/
namespace Sys2Proof.Machine

/-- The scan for the next SOF drops every leading byte that is not 0xAA (R182, D14). -/
def scan : List Byte → List Byte
  | [] => []
  | b :: rest => if b = Config.sof then b :: rest else scan rest

/-- SERVICE's loop, at most `fuel` passes: what stays in `rbuf` when it waits, and the packets delivered, oldest
first (R182). A success consumes the 9 frame bytes (D15); either codec error costs one byte (R185). -/
def serviceLoop : Nat → List Byte → List Byte × List Packet
  | 0, rbuf => (rbuf, [])
  | fuel + 1, rbuf =>
    let w := scan rbuf
    if w.length < Config.frameLen then (w, [])
    else
      match decodeFrame (w.take Config.frameLen) with
      | .ok p =>
        let (rest, ps) := serviceLoop fuel (w.drop Config.frameLen)
        (rest, p :: ps)
      | .error _ => serviceLoop fuel (w.drop 1)

/-- SERVICE: it ends after at most len(rbuf) + 1 passes (R184). -/
def service (rbuf : List Byte) : List Byte × List Packet :=
  serviceLoop (rbuf.length + 1) rbuf

/-- Receive one byte: append it and run SERVICE until it waits (R181). -/
def receiveByte (c : Channel) (b : Byte) : Channel :=
  let (rest, ps) := service (c.rbuf ++ [b])
  { c with rbuf := rest, delivered := c.delivered ++ ps }

/-- Receive bytes one at a time, in delivery order (R181). -/
def receiveBytes (c : Channel) (bs : List Byte) : Channel :=
  bs.foldl receiveByte c

end Sys2Proof.Machine
end

