-- ==== Sys2Proof/Machine/Session.lean ====
section
/-! DEFINITION. The host's dealings with the transport of a channel (60_exceptions.md R205, R213, R217;
70_reset_and_hazards.md R232, R234, R235). -/
namespace Sys2Proof.Machine

/-- A channel when it is opened: the re-framer starts with an empty buffer, at a reopening too (R180, R232). What an
earlier session sent and delivered is already outside and stays on record (log entry 12). -/
def openedChannel (old : Option Channel) : Channel :=
  { session := .active
    waited := 0
    sent := (old.map Channel.sent).getD []
    rbuf := []
    delivered := (old.map Channel.delivered).getD [] }

/-- Open the transport of a channel with its configuration (R234 step 1); a channel for which the parameters give
none is refused. DESIGN CHOICE: opening a channel whose session is still active is not refused and releases nothing;
a new session takes the old one's place, with nothing waited and an empty buffer (log entry 25: the spec is silent, and
the release that the host then owes under R235 is a duty in `DutiesMet`). -/
def openTransport (p : Setup) (ch : Nat) (m : Live) : LiveOutcome :=
  match tblFind p.transports ch with
  | some _ => .next (m.putChannel ch (openedChannel (tblFind m.channels ch))).advance
  | none => .refused .noTransportSettings

/-- Wait after opening (R234 step 2). DESIGN CHOICE (log entry 14): the time counts for the named channel alone; R234
speaks of one transport and leaves open whether it counts for every open one. -/
def waitTime (ch time : Nat) (m : Live) : LiveOutcome :=
  onOpenChannel ch (fun c => { c with waited := c.waited + time }) m

/-- Send the frame a variable holds: all its bytes, in offset order, none added (R44, R217). A result that is an
error sends nothing (R217: handle ValueRangeError). -/
def sendFrame (ch src : Nat) (m : Live) : LiveOutcome :=
  match tblFind m.vars src with
  | none => .refused .noResultToRead
  | some (.error _) => .next m.advance
  | some (.ok v) =>
    match resultBytes (.ok v) with
    | none => .refused .variableHoldsNoBytes
    | some bytes => onOpenChannel ch (fun c => { c with sent := c.sent ++ bytes }) m

/-- The transport delivers a byte to the channel's re-framer (R181). -/
def receiveOn (ch : Nat) (b : Byte) (m : Live) : LiveOutcome :=
  onOpenChannel ch (fun c => receiveByte c b) m

/-- End an active session; bytes left in the buffer stay there, undelivered (R189, R235). -/
def endSession (how : Session) (c : Channel) : Channel :=
  if c.session = .active then { c with session := how } else c

/-- End the session of a channel and release its transport, after a TransportError and at the host's own release
(R205, R235). With no session there is nothing to release. -/
def releaseTransport (how : Session) (ch : Nat) (m : Live) : LiveOutcome :=
  match tblFind m.channels ch with
  | some c => .next (m.putChannel ch (endSession how c)).advance
  | none => .next m.advance

/-- The host exits: it releases every transport it still holds (R235: "on every exit path"; log entry 8). -/
def hostExit (m : Live) : Live :=
  { m with channels := tblMap (endSession .closed) m.channels }

end Sys2Proof.Machine
end

