-- ==== Sys2Proof/Machine/Program.lean ====
section
/-! DEFINITION. What one line of the host's program does, and how the host issues a request (10_state.md R22;
30_encoding.md R70, R73, R77). The parameters are an argument of every step (10_state.md R33). -/
namespace Sys2Proof.Machine

/-- Issue a request: decode it, run the operation, and take its result into variable `dest`. A reserved OPSEL
completes with ILLEGAL_OP and reads no operand (R73, R204); an operand outside its admitted form is refused (R209). -/
def runRequest (p : Setup) (dest : Nat) (r : Request) (m : Live) : LiveOutcome :=
  match decodeRequest r with
  | .ok i => retireOutcome dest (exec i ⟨p, m⟩)
  | .error .reservedOpsel => retireOutcome dest (raise .illegalOp ⟨p, m⟩)
  | .error why => .refused (.operandNotAdmitted why)

/-- `<dest> <- DECODE <variable>`: the request whose operand is that variable's bytes (R77). -/
def runDecodeVar (p : Setup) (dest src : Nat) (m : Live) : LiveOutcome :=
  match tblFind m.vars src with
  | none => .refused .noResultToRead
  | some result =>
    match resultBytes result with
    | none => .refused .variableHoldsNoBytes
    | some bytes => runRequest p dest (encodeRequest (.decode bytes)) m

/-- One action of the host's program. Each action that has a meaning moves the index on by one (R22, log entry 13). -/
def runAction (p : Setup) (a : HostAction) (m : Live) : LiveOutcome :=
  match a with
  | .request dest r => runRequest p dest r m
  | .decodeVar dest src => runDecodeVar p dest src m
  | .openChannel ch => openTransport p ch m
  | .wait ch time => waitTime ch time m
  | .send ch src => sendFrame ch src m
  | .receive ch b => receiveOn ch b m
  | .transportError ch => releaseTransport .failed ch m
  | .closeChannel ch => releaseTransport .closed ch m

/-- The action at the host's index, if the program has one (R22). -/
def fetch (p : Setup) (m : Live) : Option HostAction :=
  p.program[m.pc]?

/-- Put an action where the host's index points, keeping every other line of the program. -/
def State.placeAction (a : HostAction) (s : State) : State :=
  { s with program :=
      s.program.take s.pc ++ List.replicate (s.pc - s.program.length) a ++ a :: s.program.drop (s.pc + 1) }

/-- The step relation, its parameters an argument (R33): run the action at the host's index. Past the end of the
program nothing is requested, and the host exits (R235, log entry 8). -/
def runStep (p : Setup) (m : Live) : LiveOutcome :=
  match fetch p m with
  | none => .next (hostExit m)
  | some a => runAction p a m

end Sys2Proof.Machine
end

