-- ==== Sys2Proof/Machine/Step.lean ====
section
/-! DEFINITION. The step function, and where an opcode-table word is placed for it. -/
namespace Sys2Proof.Machine

/-- One step of the machine: `runStep` under its own parameters. -/
def step (s : State) : Host.Outcome State Fault Refusal :=
  underSetup s.toSetup (runStep s.toSetup s.toLive)

/-- The state with the request of an opcode-table word as the very next line of the host's program, its result
going to variable 0 (log entries 5 and 6). -/
def State.withFetchWord (s : State) (nbits w : Nat) : State :=
  s.placeAction (.request 0 (tableRequest nbits w))

end Sys2Proof.Machine
end

