-- ==== Sys2Proof/Machine/Asm.lean ====
section
/-! DEFINITION. The host program's written form (30_encoding.md R77), as structured lines: the text itself is notation
(D21). -/
namespace Sys2Proof.Machine

/-- A float literal: decimal, ±digits x 10^exp10, or a bit pattern `f64:0x…` (R77). -/
inductive FloatLit
  | decimal (neg : Bool) (digits : Nat) (exp10 : Int)
  | bits (pattern : Nat)
  deriving DecidableEq, Repr

/-- DECODE's operand: bytes written out, or a variable that holds bytes (R77). -/
inductive BytesArg
  | bytes (bs : List Nat)
  | variable (v : Nat)
  deriving DecidableEq, Repr

/-- One line of a program, `<dest> <- MNEMONIC operands` (R77). -/
inductive AsmLine
  | crc8 (dest : Nat) (data : List Nat)
  | scaleEnc (dest : Nat) (f : FloatLit)
  | scaleDec (dest : Nat) (fx : Int)
  | encode (dest : Nat) (cmd : Nat) (f : FloatLit) (flag : Nat)
  | decode (dest : Nat) (arg : BytesArg)
  deriving DecidableEq, Repr

/-- A decimal literal denotes the nearest binary64, ties to even (R77). -/
def floatPattern : FloatLit → Nat
  | .decimal neg digits (.ofNat e) => (f64OfRatio neg (digits * 10 ^ e) 1).toNat
  | .decimal neg digits (.negSucc e) => (f64OfRatio neg digits (10 ^ (e + 1))).toNat
  | .bits pattern => pattern

/-- A line's encoding: its OPSEL value followed by its operand values (R77, R70). -/
def assemble : AsmLine → HostAction
  | .crc8 dest data => .request dest { op := 0, data := data }
  | .scaleEnc dest f => .request dest { op := 1, fval := floatPattern f }
  | .scaleDec dest fx => .request dest { op := 2, fx := fx }
  | .encode dest cmd f flag => .request dest { op := 3, cmd := cmd, fval := floatPattern f, flag := flag }
  | .decode dest (.bytes bs) => .request dest { op := 4, buf := bs }
  | .decode dest (.variable v) => .decodeVar dest v

end Sys2Proof.Machine
end

