-- ==== Sys2Proof/Safety.lean ====
section
/-! DEFINITION. The terms claims use: the real number a binary64 denotes, valid frames, bit flips, the machine's
invariant, and the host's duties. Nothing here is part of a step. -/
namespace Sys2Proof.Machine

/-- `real(x)`: the exact real number a finite binary64 denotes (R13). -/
def real (x : F64) : ℚ :=
  (if signBit x then -1 else 1) * ((units x : ℚ) / (unitsPerOne : ℚ))

/-- `trunc0(r)`: floor for r ≥ 0, ceiling for r < 0 (R13). -/
def truncReal (r : ℚ) : Int :=
  if 0 ≤ r then ⌊r⌋ else ⌈r⌉

/-- `q` is the binary64 nearest to the real `x`, ties to even (R13): no finite binary64 is nearer, and where a
different one is as near, the last fraction bit of `q` is 0. -/
def RoundsTo (x : ℚ) (q : F64) : Prop :=
  isFinite q = true ∧
  ∀ y : F64, isFinite y = true →
    |real q - x| ≤ |real y - x| ∧
    (|real q - x| = |real y - x| → real y ≠ real q → fraction q % 2 = 0)

/-- The scaled value that SCALE_ENC truncates: the binary64 product by 1000.0 (bit pattern 0x408F400000000000) or
the exact real product (R120, R123). -/
def scaledValue (mode : ScaleProduct) (fval : F64) : ℚ :=
  match mode with
  | .binary64Rne => real (fmul64 fval 0x408F400000000000)
  | .exactReal => real fval * 1000

/-- The scaled value exists: the operand is finite and, in mode BINARY64_RNE, so is the product (R120). -/
def Scalable (mode : ScaleProduct) (fval : F64) : Prop :=
  isFinite fval = true ∧ (mode = .binary64Rne → isFinite (fmul64 fval 0x408F400000000000) = true)

/-- A valid frame (R69). -/
def validFrame (b : List Byte) : Bool :=
  b.length == 9 && byteAt b 0 == 0xAA && byteAt b 8 == 0x55 && byteAt b 7 == crc8 (slice b 1 6)

/-- The reserved FLAGS bits 7..1 are zero, every sender's duty (R65, R237). -/
def reservedFlagsZero (b : List Byte) : Bool :=
  byteAt b 6 == 0x00 || byteAt b 6 == 0x01

/-- Flip bit `k % 8` of byte `k / 8` (R164). -/
def flipBit (d : List Byte) (k : Nat) : List Byte :=
  d.set (k / 8) (byteAt d (k / 8) ^^^ (1#8 <<< (k % 8)))

/-- What holds of every result in a variable: a frame is one that ENCODE makes (R142), and a packet's two values
agree (R27). -/
def resultGood : Result → Bool
  | .ok (.frame f) => validFrame f && reservedFlagsZero f
  | .ok (.pkt p) => p.value == scaleDecode p.valueFx
  | .ok (.crc _) | .ok (.fxOut _) | .ok (.fvalOut _) => true
  | .error _ => true

/-- A receive buffer that SERVICE has left waiting: under 9 bytes, and empty or starting with SOF (R182, R183). -/
def bufferWaiting (rbuf : List Byte) : Bool :=
  decide (rbuf.length < 9) && (rbuf.isEmpty || rbuf.head? == some 0xAA)

/-- What holds of every channel between steps (R27, R182). -/
def channelGood (c : Channel) : Bool :=
  bufferWaiting c.rbuf && c.delivered.all (fun p => p.value == scaleDecode p.valueFx)

/-- The machine's invariant between steps. -/
structure MachineInv (s : State) : Prop where
  /-- No result survives its transaction on the interface (R20, R26). -/
  noResultInFlight : s.out = none
  /-- The host's index is in its list or just past the end (R22). -/
  indexInProgram : s.pc ≤ s.program.length
  /-- The variables are in canonical form. -/
  varsCanonical : tblWf s.vars = true
  /-- The transport settings are in canonical form. -/
  transportsCanonical : tblWf s.transports = true
  /-- The channels are in canonical form. -/
  channelsCanonical : tblWf s.channels = true
  /-- Every stored frame is valid and every stored packet agrees with itself (R27, R142). -/
  resultsGood : s.vars.all (fun e => resultGood e.2) = true
  /-- Every re-framer waits, and its delivered packets agree with themselves (R27, R182). -/
  channelsGood : s.channels.all (fun e => channelGood e.2) = true

/-- The host has waited the channel's startup delay since opening (R234, R237 duty 5). -/
def StartupWaited (s : State) (ch : Nat) : Prop :=
  ∀ params c, tblFind s.transports ch = some params → tblFind s.channels ch = some c → params.startupDelay ≤ c.waited

/-- The channel holds an open transport. -/
def SessionActive (s : State) (ch : Nat) : Prop :=
  ∃ c, tblFind s.channels ch = some c ∧ c.session = .active

/-- The duties of the host that one action can break (R217, R235, R237): the first frame waits for the startup delay,
and (log entry 25) an opening does not replace a session whose transport was never released. The other duties hold by
construction: a send adds and escapes nothing, one step runs one SERVICE, and a TransportError and the host's exit
release the transport. DESIGN CHOICE (log entry 14): the wait is asked of every send line, also of one whose variable
holds an error, which sends no frame (log entry 22). -/
def DutiesMet (a : HostAction) (s : State) : Prop :=
  match a with
  | .send ch _ => StartupWaited s ch
  | .openChannel ch => ¬ SessionActive s ch
  | .request _ _ | .decodeVar _ _ | .wait _ _ | .receive _ _ => True
  | .transportError _ | .closeChannel _ => True

end Sys2Proof.Machine
end

