-- ==== Sys2Proof/Certificates/Slice0/Obligations.lean ====
section
/-! DEFINITION. The statements for the provers, each from the spec's numbered rules. -/

open Sys2Proof Sys2Proof.Machine

/-! ## CRC8 (40_crc8_engine.md) -/

/-- R100, R101 and R102: CRC8 completes on every byte sequence and every state, it writes the result and nothing else,
and the result is the last value of a register that starts at 0x00 and absorbs data byte by byte, each byte by an XOR
and eight bit steps, a bit step being R100's formula in the integers. -/
def Obligations.Crc8CompletesWithRegisterTrace : Prop :=
  (∀ c : Byte,
    (crcBitStep c).toNat =
      if c.toNat.testBit 7 then ((c.toNat <<< 1) ^^^ 0x07) &&& 0xFF else (c.toNat <<< 1) &&& 0xFF) ∧
  ∀ (data : List Byte) (s : State), ∃ reg : Nat → Byte,
    reg 0 = 0x00 ∧
    (∀ i, i < data.length → reg (i + 1) = crcBitStep^[8] (reg i ^^^ byteAt data i)) ∧
    exec (.crc8 data) s = .next { s with out := some (.ok (.crc (reg data.length))) } ∧
    (encodeRequest (.crc8 data)).op = 0b000

/-- R105, an inference the spec marks as its own: the byte step is a lookup in the table of single-byte CRCs. -/
def Obligations.CrcByteStepIsTableLookup : Prop :=
  ∀ c b : Byte, crcByteStep c b = crc8 [c ^^^ b]

/-- R106, an inference the spec marks as its own: CRC8 is linear over sequences of equal length. -/
def Obligations.Crc8Linear : Prop :=
  ∀ d e : List Byte, d.length = e.length → crc8 (xorBytes d e) = crc8 d ^^^ crc8 e

/-- R107, an inference the spec marks as its own: the residue is zero, and DECODE's checksum test is the residue test over bytes 1 to 7. -/
def Obligations.Crc8Residue : Prop :=
  (∀ d : List Byte, crc8 (d ++ [crc8 d]) = 0x00) ∧
  ∀ buf : List Byte, buf.length = 9 → (crc8 (slice buf 1 6) = byteAt buf 7 ↔ crc8 (slice buf 1 7) = 0x00)

/-- R108, an inference the spec marks as its own: leading zero bytes do not change the CRC. -/
def Obligations.Crc8IgnoresLeadingZeros : Prop :=
  ∀ (n : Nat) (d : List Byte), crc8 (List.replicate n 0x00 ++ d) = crc8 d

/-- R109, an inference the spec marks as its own: the 48 one-bit syndromes of the 6-byte span are distinct and nonzero, and every one-bit and every two-bit
change of the span changes the CRC. -/
def Obligations.Crc8DetectsOneAndTwoBitErrors : Prop :=
  (∀ i j : Nat, i < 48 → j < 48 →
    crc8 (flipBit (List.replicate 6 0x00) i) ≠ 0x00 ∧
    (i ≠ j → crc8 (flipBit (List.replicate 6 0x00) i) ≠ crc8 (flipBit (List.replicate 6 0x00) j))) ∧
  ∀ (d : List Byte) (i j : Nat), d.length = 6 → i < 48 → j < 48 →
    crc8 (flipBit d i) ≠ crc8 d ∧ (i ≠ j → crc8 (flipBit (flipBit d i) j) ≠ crc8 d)

/-- The polynomial over GF(2) whose coefficient of x^i is bit i of a byte. -/
noncomputable def Sys2Proof.Machine.bytePoly (b : Byte) : Polynomial (ZMod 2) :=
  ∑ i ∈ Finset.range 8, if b.getLsbD i then Polynomial.X ^ i else 0

/-- The polynomial over GF(2) of a message, bit 7 of byte 0 being its highest term. -/
noncomputable def Sys2Proof.Machine.messagePoly (data : List Byte) : Polynomial (ZMod 2) :=
  data.foldl (fun p b => p * Polynomial.X ^ 8 + bytePoly b) 0

/-- R103: CRC8 is the remainder of the message, times x^8, by x^8 + x^2 + x + 1, with no reflection, initial value or
final XOR; its check value is 0xF4. -/
def Obligations.Crc8IsPolynomialRemainder : Prop :=
  (∀ data : List Byte,
    (messagePoly data * Polynomial.X ^ 8) %ₘ
        (Polynomial.X ^ 8 + Polynomial.X ^ 2 + Polynomial.X + 1 : Polynomial (ZMod 2)) =
      bytePoly (crc8 data)) ∧
  crc8 [0x31, 0x32, 0x33, 0x34, 0x35, 0x36, 0x37, 0x38, 0x39] = 0xF4

/-! ## The fixed-point scaler (41_fixed_point_scaler.md) and its binary64 arithmetic (R13) -/

/-- R13, `fmul64`: below the overflow bound the product of two finite binary64 values is the nearest one, ties to
even; at or above it the product is an infinity. Its sign is the XOR of the signs. -/
def Obligations.FmulRoundsToNearestEven : Prop :=
  ∀ a b : F64, isFinite a = true → isFinite b = true →
    signBit (fmul64 a b) = (signBit a ^^ signBit b) ∧
    (|real a * real b| < 2 ^ 1024 - 2 ^ 970 → RoundsTo (real a * real b) (fmul64 a b)) ∧
    (2 ^ 1024 - 2 ^ 970 ≤ |real a * real b| → expField (fmul64 a b) = 2047 ∧ fraction (fmul64 a b) = 0)

/-- R13, `fdiv64`: the same for the quotient by a nonzero divisor. -/
def Obligations.FdivRoundsToNearestEven : Prop :=
  ∀ a b : F64, isFinite a = true → isFinite b = true → real b ≠ 0 →
    signBit (fdiv64 a b) = (signBit a ^^ signBit b) ∧
    (|real a / real b| < 2 ^ 1024 - 2 ^ 970 → RoundsTo (real a / real b) (fdiv64 a b)) ∧
    (2 ^ 1024 - 2 ^ 970 ≤ |real a / real b| → expField (fdiv64 a b) = 2047 ∧ fraction (fdiv64 a b) = 0)

/-- R13, `to_f64`: exact for |n| ≤ 2^53. -/
def Obligations.ToF64Exact : Prop :=
  ∀ n : Int, -2 ^ 53 ≤ n → n ≤ 2 ^ 53 → isFinite (toF64 n) = true ∧ real (toF64 n) = (n : ℚ)

/-- R120, R121, R122: SCALE_ENC completes on every operand and state. A scaled value that exists is truncated toward
zero, and the truncated integer is the result exactly when it is an s32; in every other case, and where no scaled
value exists (NaN, infinities, a product that overflows), the result is ValueRangeError. -/
def Obligations.ScaleEncCompletes : Prop :=
  ∀ (s : State) (fval : F64),
    (Scalable s.scaleProduct fval →
      (-2 ^ 31 ≤ truncReal (scaledValue s.scaleProduct fval) →
        truncReal (scaledValue s.scaleProduct fval) ≤ 2 ^ 31 - 1 →
        ∃ fx : S32, fx.toInt = truncReal (scaledValue s.scaleProduct fval) ∧
          exec (.scaleEnc fval) s = .next { s with out := some (.ok (.fxOut fx)) }) ∧
      (truncReal (scaledValue s.scaleProduct fval) < -2 ^ 31 ∨ 2 ^ 31 - 1 < truncReal (scaledValue s.scaleProduct fval) →
        exec (.scaleEnc fval) s = .next { s with out := some (.error .valueRange) })) ∧
    (¬ Scalable s.scaleProduct fval →
      exec (.scaleEnc fval) s = .next { s with out := some (.error .valueRange) }) ∧
    (encodeRequest (.scaleEnc fval)).op = 0b001

/-- R124, an inference the spec marks as its own: for an s32 n ≥ 0 every scaled value in [n, n + 1) gives n, and for n ≤ 0 every one in (n - 1, n]; so
distinct operands give one s32. -/
def Obligations.ScaleEncIntervals : Prop :=
  (∀ (mode : ScaleProduct) (fval : F64) (n : S32), Scalable mode fval →
    ((0 ≤ n.toInt ∧ (n.toInt : ℚ) ≤ scaledValue mode fval ∧ scaledValue mode fval < n.toInt + 1) ∨
      (n.toInt ≤ 0 ∧ (n.toInt : ℚ) - 1 < scaledValue mode fval ∧ scaledValue mode fval ≤ n.toInt)) →
    scaleEncode mode fval = .ok n) ∧
  ∀ mode : ScaleProduct, ∃ x y : F64, real x ≠ real y ∧ ∃ n : S32, scaleEncode mode x = .ok n ∧ scaleEncode mode y = .ok n

/-- R125: SCALE_DEC completes on every s32 and state with the binary64 nearest to fx / 1000: finite, never subnormal
and never -0.0, with the sign of fx, of magnitude at least 0.001 (0x3F50624DD2F1A9FC) unless it is +0.0, and exact on
multiples of 1000. -/
def Obligations.ScaleDecCompletes : Prop :=
  (∀ (s : State) (fx : S32), ∃ q : F64,
    exec (.scaleDec fx) s = .next { s with out := some (.ok (.fvalOut q)) } ∧
    RoundsTo ((fx.toInt : ℚ) / 1000) q ∧
    signBit q = decide (fx.toInt < 0) ∧
    (fx.toInt = 0 → q = 0x0000000000000000) ∧
    (fx.toInt ≠ 0 → expField q ≠ 0 ∧ real 0x3F50624DD2F1A9FC ≤ |real q|) ∧
    ((1000 : Int) ∣ fx.toInt → real q = (fx.toInt : ℚ) / 1000) ∧
    (encodeRequest (.scaleDec fx)).op = 0b010) ∧
  scaleDecode 1 = 0x3F50624DD2F1A9FC ∧ scaleDecode (-1) = 0xBF50624DD2F1A9FC ∧
  scaleDecode 0x7FFFFFFF = 0x4140624DD2D0E560 ∧ scaleDecode 0x80000000 = 0xC140624DD2F1A9FC

/-- R126, an inference the spec marks as its own: SCALE_DEC is strictly increasing, its results lie between those of the ends of s32 (the binary64 values that
-2147483.648 and 2147483.647 denote), and the sign of a result is that of its operand. -/
def Obligations.ScaleDecStrictlyIncreasing : Prop :=
  ∀ m n : S32,
    (m.toInt < n.toInt → real (scaleDecode m) < real (scaleDecode n)) ∧
    real 0xC140624DD2F1A9FC ≤ real (scaleDecode m) ∧ real (scaleDecode m) ≤ real 0x4140624DD2D0E560 ∧
    (0 < real (scaleDecode m) ↔ 0 < m.toInt) ∧ (real (scaleDecode m) < 0 ↔ m.toInt < 0)

/-- R127, an inference the spec marks as its own: the round trip float to s32 to float. -/
def Obligations.RoundTripBound : Prop :=
  ∀ (mode : ScaleProduct) (fval : F64) (t : S32), scaleEncode mode fval = .ok t →
    |real (scaleDecode t) - real fval| < 1 / 1000 + |real fval| / 2 ^ 51 ∧
    (mode = .binary64Rne →
      (real (scaleDecode t) = 0 ∨ signBit (scaleDecode t) = signBit fval) ∧
      ((∃ n : Int, real fval * 1000 = n) → real (scaleDecode t) = real fval))

/-- R128, an inference the spec marks as its own: the round trip s32 to float to s32 is the identity on multiples of 1000, in both modes; under BINARY64_RNE
1001, 1003 and 1005 come back one less. -/
def Obligations.MultiplesOf1000RoundTrip : Prop :=
  (∀ (mode : ScaleProduct) (n : S32), (1000 : Int) ∣ n.toInt → scaleEncode mode (scaleDecode n) = .ok n) ∧
  scaleEncode .binary64Rne (scaleDecode 1001) = .ok 1000 ∧
  scaleEncode .binary64Rne (scaleDecode 1003) = .ok 1002 ∧
  scaleEncode .binary64Rne (scaleDecode 1005) = .ok 1004

/-- An inference the spec marks as its own, in R69 and R166: every s32 is a value SCALE_ENC can produce, in either mode. -/
def Obligations.EveryFixedPointValueReachable : Prop :=
  ∀ (mode : ScaleProduct) (n : S32), ∃ fval : F64, scaleEncode mode fval = .ok n

/-! ## ENCODE (42_packet_encoder.md) -/

/-- R140, R141: ENCODE completes on every operand and state. Where SCALE_ENC gives an s32 of pattern u, the result is
the 9 bytes AA, cmd, u in little-endian order, the FLAGS byte, the CRC8 of those six, 55; where it raises an error,
which is then ValueRangeError, so does ENCODE, with no frame. -/
def Obligations.EncodeCompletes : Prop :=
  ∀ (s : State) (cmd : Byte) (fval : F64) (flag : Bool),
    (∀ fx : S32, scaleEncode s.scaleProduct fval = .ok fx →
      ∃ b0 b1 b2 b3 flags : Byte,
        b0.toNat = fx.toNat % 2 ^ 8 ∧ b1.toNat = fx.toNat / 2 ^ 8 % 2 ^ 8 ∧
        b2.toNat = fx.toNat / 2 ^ 16 % 2 ^ 8 ∧ b3.toNat = fx.toNat / 2 ^ 24 ∧
        flags.toNat = (if flag then 1 else 0) ∧
        exec (.encode cmd fval flag) s =
          .next { s with out := some (.ok (.frame
            [0xAA, cmd, b0, b1, b2, b3, flags, crc8 [cmd, b0, b1, b2, b3, flags], 0x55])) }) ∧
    (∀ e, scaleEncode s.scaleProduct fval = .error e →
      e = .valueRange ∧ exec (.encode cmd fval flag) s = .next { s with out := some (.error .valueRange) }) ∧
    (encodeRequest (.encode cmd fval flag)).op = 0b011

/-- R142, an inference the spec marks as its own: every frame ENCODE returns has 9 bytes, is a valid frame, and has FLAGS 0x00 or 0x01. -/
def Obligations.EncodedFrameIsValid : Prop :=
  ∀ (s t : State) (cmd : Byte) (fval : F64) (flag : Bool) (f : List Byte),
    exec (.encode cmd fval flag) s = .next t → t.out = some (.ok (.frame f)) →
    f.length = 9 ∧ f[0]? = some 0xAA ∧ f[8]? = some 0x55 ∧ (f[6]? = some 0x00 ∨ f[6]? = some 0x01) ∧
    f[7]? = some (crc8 ((f.drop 1).take 6)) ∧ validFrame f = true

/-- R143, an inference the spec marks as its own: two ENCODEs that succeed give one frame exactly when they agree on cmd, on SCALE_ENC of the value and on the
flag. -/
def Obligations.EncodeInjective : Prop :=
  ∀ (mode : ScaleProduct) (c c' : Byte) (v v' : F64) (g g' : Bool) (f f' : List Byte),
    encodeFrame mode c v g = .ok f → encodeFrame mode c' v' g' = .ok f' →
    (f = f' ↔ c = c' ∧ scaleEncode mode v = scaleEncode mode v' ∧ g = g')

/-- R64 and R41: the two assembly functions are exact inverses, and the bytes are the pattern's, lowest first. -/
def Obligations.LittleEndianInverse : Prop :=
  (∀ n : S32,
    int32Le (leBytes32 n) = n ∧
    leBytes32 n = [BitVec.ofNat 8 n.toNat, BitVec.ofNat 8 (n.toNat / 2 ^ 8), BitVec.ofNat 8 (n.toNat / 2 ^ 16),
      BitVec.ofNat 8 (n.toNat / 2 ^ 24)]) ∧
  ∀ b : List Byte, b.length = 4 → leBytes32 (int32Le b) = b

/-! ## DECODE (43_packet_decoder.md) -/

/-- R160, R161: DECODE completes on every byte sequence and state: FramingError for a wrong length, then for a wrong
marker, then ChecksumError for a wrong CRC, else the Packet of the payload bytes. -/
def Obligations.DecodeCompletes : Prop :=
  (∀ (s : State) (buf : List Byte), buf.length ≠ 9 →
    exec (.decode buf) s = .next { s with out := some (.error .framing) }) ∧
  (∀ buf : List Byte, (encodeRequest (.decode buf)).op = 0b100) ∧
  ∀ (s : State) (sof cmd b0 b1 b2 b3 flags crc eof : Byte),
    exec (.decode [sof, cmd, b0, b1, b2, b3, flags, crc, eof]) s =
      .next { s with out := some (
        if sof ≠ 0xAA ∨ eof ≠ 0x55 then .error .framing
        else if crc8 [cmd, b0, b1, b2, b3, flags] ≠ crc then .error .checksum
        else .ok (.pkt
          { cmd := cmd
            value := scaleDecode (BitVec.ofNat 32
              (b0.toNat + 2 ^ 8 * b1.toNat + 2 ^ 16 * b2.toNat + 2 ^ 24 * b3.toNat))
            valueFx := BitVec.ofNat 32 (b0.toNat + 2 ^ 8 * b1.toNat + 2 ^ 16 * b2.toNat + 2 ^ 24 * b3.toNat)
            flag := flags.getLsbD 0 })) }

/-- R69, and R75, an inference the spec marks as its own: DECODE succeeds exactly on the valid frames, and gives every other byte sequence exactly one of the
two errors. -/
def Obligations.DecodeAcceptsExactlyValidFrames : Prop :=
  ∀ buf : List Byte,
    (validFrame buf = true → ∃ p, decodeFrame buf = .ok p) ∧
    (validFrame buf = false → decodeFrame buf = .error .framing ∨ decodeFrame buf = .error .checksum)

/-- R163, an inference the spec marks as its own: decoding an encoded frame gives back cmd and flag, the fixed-point value SCALE_ENC gave and its decoded
value, within the bound of R127, and the very value where value x 1000 is an integer. -/
def Obligations.DecodeOfEncode : Prop :=
  ∀ (mode : ScaleProduct) (cmd : Byte) (fval : F64) (flag : Bool) (f : List Byte),
    encodeFrame mode cmd fval flag = .ok f →
    ∃ fx : S32, scaleEncode mode fval = .ok fx ∧
      decodeFrame f = .ok { cmd := cmd, value := scaleDecode fx, valueFx := fx, flag := flag } ∧
      |real (scaleDecode fx) - real fval| < 1 / 1000 + |real fval| / 2 ^ 51 ∧
      ((∃ n : Int, real fval * 1000 = n) → real (scaleDecode fx) = real fval)

/-- R164, an inference the spec marks as its own: one flipped bit of a valid frame gives FramingError in bytes 0 and 8 and ChecksumError in bytes 1 to 7, and
two flipped bits in bytes 1 to 6 give ChecksumError. -/
def Obligations.BitFlipsDetected : Prop :=
  ∀ f : List Byte, validFrame f = true →
    (∀ k, k < 8 ∨ (64 ≤ k ∧ k < 72) → decodeFrame (flipBit f k) = .error .framing) ∧
    (∀ k, 8 ≤ k → k < 64 → decodeFrame (flipBit f k) = .error .checksum) ∧
    ∀ j k, 8 ≤ j → j < 56 → 8 ≤ k → k < 56 → j ≠ k → decodeFrame (flipBit (flipBit f j) k) = .error .checksum

/-- R65 and R74: ENCODE writes FLAGS as 0x01 or 0x00, so never a reserved bit. DECODE accepts every FLAGS byte under
the CRC that covers it; the flag is its bit 0, and bits 7 to 1 appear nowhere in the Packet. -/
def Obligations.ReservedFlagBitsZeroAndIgnored : Prop :=
  (∀ (s t : State) (cmd : Byte) (fval : F64) (flag : Bool) (f : List Byte),
    exec (.encode cmd fval flag) s = .next t → t.out = some (.ok (.frame f)) →
    f[6]? = some (if flag then 0x01 else 0x00)) ∧
  ∀ (cmd b0 b1 b2 b3 flags : Byte) (s : State),
    exec (.decode [0xAA, cmd, b0, b1, b2, b3, flags, crc8 [cmd, b0, b1, b2, b3, flags], 0x55]) s =
      .next { s with out := some (.ok (.pkt
        { cmd := cmd
          value := scaleDecode (BitVec.ofNat 32
            (b0.toNat + 2 ^ 8 * b1.toNat + 2 ^ 16 * b2.toNat + 2 ^ 24 * b3.toNat))
          valueFx := BitVec.ofNat 32 (b0.toNat + 2 ^ 8 * b1.toNat + 2 ^ 16 * b2.toNat + 2 ^ 24 * b3.toNat)
          flag := decide (flags.toNat % 2 = 1) })) }

/-! ## The re-framer (44_reframer.md) -/

/-- R182: SERVICE's loop, without the bound on its passes: scan; wait under 9 bytes; else DECODE the first 9 bytes,
deliver and consume them on success, and discard one byte on an error. -/
def Obligations.ServiceFollowsItsLoop : Prop :=
  ∀ rbuf : List Byte,
    scan rbuf = rbuf.dropWhile (fun b => b != 0xAA) ∧
    service rbuf =
      if (scan rbuf).length < 9 then (scan rbuf, [])
      else
        match decodeFrame ((scan rbuf).take 9) with
        | .ok p => ((service ((scan rbuf).drop 9)).1, p :: (service ((scan rbuf).drop 9)).2)
        | .error _ => service ((scan rbuf).drop 1)

/-- R184, an inference the spec marks as its own, and R189: SERVICE ends waiting, with fewer than 9 bytes that are empty or start with SOF, and delivers at
most one packet for every 9 bytes. -/
def Obligations.ServiceEndsWaiting : Prop :=
  ∀ rbuf : List Byte,
    (service rbuf).1.length < 9 ∧
    ((service rbuf).1 = [] ∨ (service rbuf).1.head? = some 0xAA) ∧
    (∃ dropped, rbuf = dropped ++ (service rbuf).1) ∧
    (service rbuf).2.length ≤ rbuf.length / 9

/-- R181, its second sentence, an inference the spec marks as its own: SERVICE after a batch gives the deliveries and the buffer of SERVICE after each byte. -/
def Obligations.BatchReceiveEqualsBytewise : Prop :=
  ∀ (c : Channel) (bs : List Byte), bs ≠ [] →
    receiveBytes c bs =
      { c with
        rbuf := (service (c.rbuf ++ bs)).1
        delivered := c.delivered ++ (service (c.rbuf ++ bs)).2 }

/-- R186, an inference the spec marks as its own: over a transport that delivers exactly the bytes of frames ENCODE made, one packet per frame is delivered, in
order, each the DECODE of its frame, and nothing stays behind. -/
def Obligations.PerfectTransportDeliversEveryFrame : Prop :=
  ∀ (mode : ScaleProduct) (fs : List (List Byte)) (c : Channel),
    (∀ f ∈ fs, ∃ cmd fval flag, encodeFrame mode cmd fval flag = .ok f) → c.rbuf = [] →
    ∃ ps : List Packet,
      List.Forall₂ (fun f p => decodeFrame f = .ok p) fs ps ∧
      receiveBytes c fs.flatten = { c with delivered := c.delivered ++ ps }

/-- R183, an inference the spec marks as its own: on a window SERVICE passes to DECODE (9 bytes, the first 0xAA) FramingError means byte 8 is not 0x55, and
ChecksumError means the markers are right and the CRC is not. -/
def Obligations.WindowErrors : Prop :=
  ∀ w : List Byte, w.length = 9 → w[0]? = some 0xAA →
    (decodeFrame w = .error .framing ↔ w[8]? ≠ some 0x55) ∧
    (decodeFrame w = .error .checksum ↔ w[8]? = some 0x55 ∧ w[7]? ≠ some (crc8 ((w.drop 1).take 6)))

/-! ## Requests (30_encoding.md R70 to R73) -/

/-- R70, R71: decoding the request of an operation gives the operation back, with every operand at every value. -/
def Obligations.RequestEncodingRoundTrip : Prop :=
  ∀ i : Instr, decodeRequest (encodeRequest i) = .ok i

/-- R70, R71, R73: a well-formed request decodes to an operation whose select and operands are the request's own, or
is reserved; any other is rejected under another name. -/
def Obligations.RequestDecodingFaithful : Prop :=
  ∀ r : Request,
    (r.wellFormed = true → r.op < 5 → ∃ i, decodeRequest r = .ok i ∧
      match i with
      | .crc8 data => r.op = 0 ∧ bytesToNats data = r.data
      | .scaleEnc fval => r.op = 1 ∧ fval.toNat = r.fval
      | .scaleDec fx => r.op = 2 ∧ fx.toInt = r.fx
      | .encode cmd fval flag => r.op = 3 ∧ cmd.toNat = r.cmd ∧ fval.toNat = r.fval ∧ flag.toNat = r.flag
      | .decode buf => r.op = 4 ∧ bytesToNats buf = r.buf) ∧
    (r.wellFormed = true → 5 ≤ r.op → decodeRequest r = .error .reservedOpsel) ∧
    (r.wellFormed = false → ∃ e, decodeRequest r = .error e ∧ e ≠ .reservedOpsel)

/-- R70: the words of the opcode table, the request of line 1 of program P2 and the operand of vector SCD-2 decode to
the operations they stand for. -/
def Obligations.SpecWordsDecode : Prop :=
  decodeTableWord 3 0b000 = some (.crc8 []) ∧
  decodeTableWord 3 0b001 = some (.scaleEnc 0) ∧
  decodeTableWord 3 0b010 = some (.scaleDec 0) ∧
  decodeTableWord 3 0b011 = some (.encode 0 0 false) ∧
  decodeTableWord 3 0b100 = some (.decode []) ∧
  decodeTableWord 3 0b101 = none ∧ decodeTableWord 3 0b110 = none ∧ decodeTableWord 3 0b111 = none ∧
  decodeRequest { op := 3, cmd := 0x21, fval := 0x4146E36000000000, flag := 0 } = .ok (.encode 0x21 0x4146E36000000000 false) ∧
  decodeRequest { op := 2, fx := -1000 } = .ok (.scaleDec 0xFFFFFC18)

/-! ## The machine (10_state.md, 20_memory.md, 60_exceptions.md, 70_reset_and_hazards.md) -/

/-- R22, R70, R77: when the host's line at its index is a request that decodes to i, the step is exec of i; the result i
leaves on the interface goes to the line's variable, the interface is empty again, and the index moves by one. -/
def Obligations.StepRunsDecodedRequest : Prop :=
  ∀ (s t : State) (dest : Nat) (r : Request) (i : Instr) (res : Result),
    s.program[s.pc]? = some (.request dest r) → decodeRequest r = .ok i →
    exec i s = .next t → t.out = some res →
    step s = .next { t with vars := tblSet t.vars dest res, out := none, pc := t.pc + 1 }

/-- R209, R22, R26: every request of admitted operands completes with a status; the step writes the result variable,
moves the index by one whatever the status, and leaves everything else, every other variable included. -/
def Obligations.EveryAdmittedRequestCompletes : Prop :=
  ∀ (s : State) (dest : Nat) (r : Request),
    s.program[s.pc]? = some (.request dest r) → r.wellFormed = true →
    ∃ (res : Result) (t : State), step s = .next t ∧
      t = { s with vars := t.vars, out := t.out, pc := s.pc + 1 } ∧
      t.out = none ∧ tblFind t.vars dest = some res ∧
      ∀ v, v ≠ dest → tblFind t.vars v = tblFind s.vars v

/-- R73, R204, R206: a request with OPSEL 5, 6 or 7, whatever its operands, completes with status ILLEGAL_OP, code 4
(R72). Where the result goes, the cleared interface and the index are the host's as the model holds it (R77, R26, R22;
log entries 1, 3 and 11). -/
def Obligations.ReservedOpselCompletesIllegalOp : Prop :=
  ∀ (s : State) (dest : Nat) (r : Request),
    s.program[s.pc]? = some (.request dest r) → (r.op = 5 ∨ r.op = 6 ∨ r.op = 7) →
    step s = .next { s with vars := tblSet s.vars dest (.error .illegalOp), out := none, pc := s.pc + 1 } ∧
    statusCode (.error .illegalOp) = 4

/-- R209, U18: a request whose select is no u3, or whose operand is outside its admitted form, is refused by name. -/
def Obligations.UnrepresentableOperandRefused : Prop :=
  ∀ (s : State) (dest : Nat) (r : Request),
    s.program[s.pc]? = some (.request dest r) → r.wellFormed = false →
    ∃ why, step s = .refused (.operandNotAdmitted why)

/-- R20, R48, R51: the result of an operation is a function of its operands, and of SCALE_PRODUCT, alone: two states
that agree on nothing else give it the same result, and it changes nothing but the result. -/
def Obligations.ResultDependsOnOperandsOnly : Prop :=
  ∀ (i : Instr) (s s' : State), s.scaleProduct = s'.scaleProduct →
    ∃ res : Result,
      exec i s = .next { s with out := some res } ∧ exec i s' = .next { s' with out := some res }

/-- R51: two adjacent requests for different variables may run in either order: both orders complete, and leave the
same variables. -/
def Obligations.AdjacentRequestsCommute : Prop :=
  ∀ (s : State) (d d' : Nat) (r r' : Request), d ≠ d' → r.wellFormed = true → r'.wellFormed = true →
    tblWf s.vars = true →
    ∃ t t' : State,
      Host.Core.run core 2 { s with program := [.request d r, .request d' r'], pc := 0 } = .next t ∧
      Host.Core.run core 2 { s with program := [.request d' r', .request d r], pc := 0 } = .next t' ∧
      t.vars = t'.vars

/-- R72, R200: which statuses each operation's result can have. -/
def Obligations.StatusesByOperation : Prop :=
  ∀ (i : Instr) (s : State), ∃ res : Result, exec i s = .next { s with out := some res } ∧
    match i with
    | .crc8 _ => ∃ c, res = .ok (.crc c)
    | .scaleEnc _ => (∃ fx, res = .ok (.fxOut fx)) ∨ statusCode res = 3
    | .scaleDec _ => ∃ v, res = .ok (.fvalOut v)
    | .encode _ _ _ => (∃ f, res = .ok (.frame f)) ∨ statusCode res = 3
    | .decode _ => (∃ p, res = .ok (.pkt p)) ∨ statusCode res = 1 ∨ statusCode res = 2

/-- R77: DECODE of a variable is the DECODE request of the frame it holds. -/
def Obligations.DecodeOfVariable : Prop :=
  ∀ (s : State) (dest src : Nat) (f : List Byte),
    s.program[s.pc]? = some (.decodeVar dest src) → tblFind s.vars src = some (.ok (.frame f)) →
    step s =
      .next { s with
        vars := tblSet s.vars dest (match decodeFrame f with | .ok p => .ok (.pkt p) | .error e => .error e)
        out := none
        pc := s.pc + 1 }

/-- R217, R44, R141: sending a variable's frame hands its bytes to the open transport in offset order, none added, and
sending a result that is an error hands over nothing; no variable and no other channel changes. -/
def Obligations.SendHandsOverTheFrame : Prop :=
  ∀ (s : State) (ch src : Nat), s.program[s.pc]? = some (.send ch src) →
    (∀ (f : List Byte) (c : Channel), tblFind s.vars src = some (.ok (.frame f)) → tblFind s.channels ch = some c →
      c.session = .active →
      ∃ t, step s = .next t ∧ t = { s with channels := t.channels, pc := s.pc + 1 } ∧
        tblFind t.channels ch = some { c with sent := c.sent ++ f } ∧
        ∀ k, k ≠ ch → tblFind t.channels k = tblFind s.channels k) ∧
    (∀ e, tblFind s.vars src = some (.error e) → step s = .next { s with pc := s.pc + 1 })

/-- R181, R188: a byte of any value delivered to an open channel is appended to that channel's buffer and SERVICE runs;
nothing else changes. -/
def Obligations.ReceiveServicesItsChannel : Prop :=
  ∀ (s : State) (ch : Nat) (b : Byte) (c : Channel),
    s.program[s.pc]? = some (.receive ch b) → tblFind s.channels ch = some c → c.session = .active →
    ∃ t, step s = .next t ∧ t = { s with channels := t.channels, pc := s.pc + 1 } ∧
      tblFind t.channels ch =
        some { c with
          rbuf := (service (c.rbuf ++ [b])).1
          delivered := c.delivered ++ (service (c.rbuf ++ [b])).2 } ∧
      ∀ k, k ≠ ch → tblFind t.channels k = tblFind s.channels k

/-- R232, R180: opening a channel that has transport settings leaves an active session with an empty receive buffer
and nothing waited, at a reopening and over a live session too (log entry 25), and keeps the record of what was sent
and delivered (log entry 12); R234: the wait that follows meets the startup duty once it is as long as the delay.
Without settings an opening is refused (log entry 26). That these lines move the index is log entry 13. -/
def Obligations.OpeningStartsEmptyAndWaits : Prop :=
  (∀ (s : State) (ch time : Nat) (params : HostParams),
    s.program[s.pc]? = some (.openChannel ch) → s.program[s.pc + 1]? = some (.wait ch time) →
    tblFind s.transports ch = some params →
    ∃ (t u : State) (c : Channel), step s = .next t ∧ step t = .next u ∧
      c = { session := .active
            waited := 0
            sent := ((tblFind s.channels ch).map Channel.sent).getD []
            rbuf := []
            delivered := ((tblFind s.channels ch).map Channel.delivered).getD [] } ∧
      t = { s with channels := t.channels, pc := s.pc + 1 } ∧
      tblFind t.channels ch = some c ∧
      u = { s with channels := u.channels, pc := s.pc + 2 } ∧
      tblFind u.channels ch = some { c with waited := time } ∧
      (∀ k, k ≠ ch → tblFind t.channels k = tblFind s.channels k ∧ tblFind u.channels k = tblFind s.channels k) ∧
      (params.startupDelay ≤ time → ∀ src, DutiesMet (.send ch src) u)) ∧
  ∀ (s : State) (ch : Nat), s.program[s.pc]? = some (.openChannel ch) → tblFind s.transports ch = none →
    step s = .refused .noTransportSettings

/-- R205, R235, R189: a TransportError ends the channel's session, and so does the host's release; the transport is
released, the residue of the buffer stays as it was and is not delivered, nothing else changes, and a later receive is
refused when it is the next line. (InactiveChannelRefusesUntilOpened says it of every later line.) -/
def Obligations.SessionEndReleasesTheTransport : Prop :=
  ∀ (s : State) (ch : Nat) (c : Channel) (how : Session),
    (s.program[s.pc]? = some (.transportError ch) ∧ how = .failed ∨
      s.program[s.pc]? = some (.closeChannel ch) ∧ how = .closed) →
    tblFind s.channels ch = some c → c.session = .active →
    ∃ t, step s = .next t ∧ t = { s with channels := t.channels, pc := s.pc + 1 } ∧
      tblFind t.channels ch = some { c with session := how } ∧
      (∀ k, k ≠ ch → tblFind t.channels k = tblFind s.channels k) ∧
      ∀ b, s.program[s.pc + 1]? = some (.receive ch b) → step t = .refused .channelNotOpen

/-- R213, log entry 13: on a channel with no active session every wait, every receive and every send of a frame is
refused, and no step makes the session active but the one that opens the channel. -/
def Obligations.InactiveChannelRefusesUntilOpened : Prop :=
  ∀ (s : State) (ch : Nat), ¬ SessionActive s ch →
    (∀ a, s.program[s.pc]? = some a →
      ((∃ time, a = .wait ch time) ∨ (∃ b, a = .receive ch b) ∨
        ∃ src f, a = .send ch src ∧ tblFind s.vars src = some (.ok (.frame f))) →
      step s = .refused .channelNotOpen) ∧
    ∀ t, step s = .next t → s.program[s.pc]? ≠ some (.openChannel ch) → ¬ SessionActive t ch

/-- R235, with the end of the program as the host's exit (log entry 8): the step past the end closes every session that
is still active, keeps the rest of each channel's record and everything else, and a further step changes nothing. -/
def Obligations.HostExitReleasesEveryTransport : Prop :=
  ∀ s : State, s.program[s.pc]? = none →
    ∃ t, step s = .next t ∧ t = { s with channels := t.channels } ∧
      (∀ ch, tblFind t.channels ch =
        (tblFind s.channels ch).map (fun c => if c.session = .active then { c with session := .closed } else c)) ∧
      (∀ ch, ¬ SessionActive t ch) ∧ step t = .next t

/-- R32, U6 and U17, log entry 10: a step that reads a variable with no result is refused, and so is one that needs
bytes from a result that holds none; sending an error is no such case (log entry 22). -/
def Obligations.ReadsWithoutResultRefused : Prop :=
  ∀ (s : State) (dest src ch : Nat),
    (s.program[s.pc]? = some (.decodeVar dest src) ∨ s.program[s.pc]? = some (.send ch src) →
      (tblFind s.vars src = none → step s = .refused .noResultToRead) ∧
      (∀ v, tblFind s.vars src = some (.ok v) → (∀ f, v ≠ .frame f) → step s = .refused .variableHoldsNoBytes)) ∧
    (s.program[s.pc]? = some (.decodeVar dest src) →
      ∀ e, tblFind s.vars src = some (.error e) → step s = .refused .variableHoldsNoBytes)

/-- R22, R23, R33: every step keeps the parameters: SCALE_PRODUCT, the transport settings and the program. A step past
the end of the program keeps the index and changes nothing but channels (log entry 8). Every other one moves the index
by exactly one: for a request R22 says so, for a transport line it is the model's choice (log entry 13). -/
def Obligations.StepKeepsConfigurationAndAdvances : Prop :=
  ∀ s t : State, step s = .next t →
    t.scaleProduct = s.scaleProduct ∧ t.transports = s.transports ∧ t.program = s.program ∧
    (s.program[s.pc]? = none → t = { s with channels := t.channels }) ∧
    (∀ a, s.program[s.pc]? = some a → t.pc = s.pc + 1)

/-- R210, R207: a step that is no request or DECODE of a variable changes no variable, and a request changes no channel. -/
def Obligations.BlockAndTransportApart : Prop :=
  ∀ (s t : State) (a : HostAction), s.program[s.pc]? = some a → step s = .next t →
    match a with
    | .request dest _ | .decodeVar dest _ =>
      t.channels = s.channels ∧ ∀ v, v ≠ dest → tblFind t.vars v = tblFind s.vars v
    | .openChannel ch | .wait ch _ | .send ch _ | .receive ch _ | .transportError ch | .closeChannel ch =>
      t.vars = s.vars ∧ t.out = s.out ∧ ∀ k, k ≠ ch → tblFind t.channels k = tblFind s.channels k

/-- R20, R27, R142, R182: every step keeps the machine's invariant. -/
def Obligations.StepKeepsInvariant : Prop :=
  ∀ s t : State, MachineInv s → step s = .next t → MachineInv t

/-- R32, R230: at reset no result exists, no channel is open and the invariant holds; SCALE_PRODUCT has its default. -/
def Obligations.ResetState : Prop :=
  MachineInv State.reset ∧ State.reset.out = none ∧ (∀ v, tblFind State.reset.vars v = none) ∧
  (∀ ch, tblFind State.reset.channels ch = none) ∧ State.reset.scaleProduct = .binary64Rne
end

