-- ==== Sys2Proof/Laws/State.lean ====
section
/-! SUPPORT. One lemma per field per update of the state, what retiring a completed request does, and a step under its
parameters. -/
namespace Sys2Proof.Machine

variable (s : State) (p : Setup) (m : Live) (r : Result) (c : Channel) (a : HostAction) (d ch : Nat)

@[simp] theorem State.complete_toSetup : (s.complete r).toSetup = s.toSetup := rfl
@[simp] theorem State.complete_scaleProduct : (s.complete r).scaleProduct = s.scaleProduct := rfl
@[simp] theorem State.complete_transports : (s.complete r).transports = s.transports := rfl
@[simp] theorem State.complete_program : (s.complete r).program = s.program := rfl
@[simp] theorem State.complete_pc : (s.complete r).pc = s.pc := rfl
@[simp] theorem State.complete_vars : (s.complete r).vars = s.vars := rfl
@[simp] theorem State.complete_channels : (s.complete r).channels = s.channels := rfl
@[simp] theorem State.complete_out : (s.complete r).out = some r := rfl

@[simp] theorem Live.advance_pc : m.advance.pc = m.pc + 1 := rfl
@[simp] theorem Live.advance_vars : m.advance.vars = m.vars := rfl
@[simp] theorem Live.advance_channels : m.advance.channels = m.channels := rfl
@[simp] theorem Live.advance_out : m.advance.out = m.out := rfl

@[simp] theorem Live.putChannel_pc : (m.putChannel ch c).pc = m.pc := rfl
@[simp] theorem Live.putChannel_vars : (m.putChannel ch c).vars = m.vars := rfl
@[simp] theorem Live.putChannel_channels : (m.putChannel ch c).channels = tblSet m.channels ch c := rfl
@[simp] theorem Live.putChannel_out : (m.putChannel ch c).out = m.out := rfl

@[simp] theorem hostExit_pc : (hostExit m).pc = m.pc := rfl
@[simp] theorem hostExit_vars : (hostExit m).vars = m.vars := rfl
@[simp] theorem hostExit_channels : (hostExit m).channels = tblMap (endSession .closed) m.channels := rfl
@[simp] theorem hostExit_out : (hostExit m).out = m.out := rfl

@[simp] theorem State.placeAction_scaleProduct : (s.placeAction a).scaleProduct = s.scaleProduct := rfl
@[simp] theorem State.placeAction_transports : (s.placeAction a).transports = s.transports := rfl
@[simp] theorem State.placeAction_pc : (s.placeAction a).pc = s.pc := rfl
@[simp] theorem State.placeAction_vars : (s.placeAction a).vars = s.vars := rfl
@[simp] theorem State.placeAction_channels : (s.placeAction a).channels = s.channels := rfl
@[simp] theorem State.placeAction_out : (s.placeAction a).out = s.out := rfl

/-- What retiring a completed request leaves: its result in the variable, nothing on the interface, the index moved. -/
theorem Live.retire_complete :
    (State.complete r ⟨p, m⟩).toLive.retire d = { m with vars := tblSet m.vars d r, out := none, pc := m.pc + 1 } := rfl

/-- A placed action is the one the next step fetches. -/
theorem fetch_placeAction : fetch (s.placeAction a).toSetup (s.placeAction a).toLive = some a := by
  have h : (s.program.take s.pc ++ List.replicate (s.pc - s.program.length) a).length = s.pc := by
    simp only [List.length_append, List.length_take, List.length_replicate]; omega
  simp only [fetch, State.placeAction]
  rw [List.getElem?_append_right (by omega), h, Nat.sub_self, List.getElem?_cons_zero]

variable {s p}

/-- A step that answers a next state is a step of the state proper, and keeps the parameters (R33). -/
theorem step_next {t : State} (h : step s = .next t) :
    runStep s.toSetup s.toLive = .next t.toLive ∧ t.toSetup = s.toSetup := by
  unfold step at h
  cases hr : runStep s.toSetup s.toLive <;> rw [hr] at h <;> cases h
  exact ⟨rfl, rfl⟩

/-- A step runs the line at the index. -/
theorem step_of_line (h : s.program[s.pc]? = some a) :
    step s = underSetup s.toSetup (runAction s.toSetup a s.toLive) := by
  rw [step, runStep, fetch, h]

/-- Past the end of the program the host exits. -/
theorem step_of_end (h : s.program[s.pc]? = none) : step s = .next ⟨s.toSetup, hostExit s.toLive⟩ := by
  rw [step, runStep, fetch, h]; rfl

end Sys2Proof.Machine
end

