-- ==== Sys2Proof/Laws/Table.lean ====
section
/-! SUPPORT. What a table read gives after a write, and that a write keeps the canonical form. -/
namespace Sys2Proof.Machine

theorem tblFind_tblSet_self {α : Type} (t : Tbl α) (i : Nat) (v : α) : tblFind (tblSet t i v) i = some v := by
  induction t with
  | nil => simp [tblSet, tblFind]
  | cons e t ih =>
    obtain ⟨k, w⟩ := e
    simp only [tblSet]
    split_ifs with h1 h2
    · simp [tblFind]
    · simp [tblFind]
    · simp [tblFind, h2, ih]

theorem tblFind_tblSet_ne {α : Type} (t : Tbl α) {i j : Nat} (v : α) (h : j ≠ i) :
    tblFind (tblSet t i v) j = tblFind t j := by
  induction t with
  | nil => simp [tblSet, tblFind, h]
  | cons e t ih =>
    obtain ⟨k, w⟩ := e
    simp only [tblSet]
    split_ifs with h1 h2
    · simp [tblFind, h]
    · subst h2; simp [tblFind, h]
    · simp [tblFind, ih]

/-- Every entry after a write is the one written or one that stood before. -/
theorem mem_tblSet {α : Type} {t : Tbl α} {i : Nat} {v : α} {e : Nat × α} (h : e ∈ tblSet t i v) :
    e = (i, v) ∨ e ∈ t := by
  induction t with
  | nil => simpa [tblSet] using h
  | cons x t ih =>
    obtain ⟨k, w⟩ := x
    simp only [tblSet] at h
    split_ifs at h with h1 h2 <;> simp only [List.mem_cons] at h ⊢ <;> tauto

theorem tblSet_wf {α : Type} {t : Tbl α} (i : Nat) (v : α) (h : tblWf t = true) : tblWf (tblSet t i v) = true := by
  induction t with
  | nil => simp [tblSet, tblWf]
  | cons e t ih =>
    obtain ⟨k, w⟩ := e
    simp only [tblWf, Bool.and_eq_true, List.all_eq_true, decide_eq_true_eq] at h
    simp only [tblSet]
    split_ifs with h1 h2
    · simp only [tblWf, Bool.and_eq_true, List.all_eq_true, decide_eq_true_eq, List.mem_cons]
      refine ⟨?_, h⟩
      rintro x (rfl | hx)
      · exact h1
      · exact h1.trans (h.1 x hx)
    · subst h2
      simpa only [tblWf, Bool.and_eq_true, List.all_eq_true, decide_eq_true_eq] using h
    · simp only [tblWf, Bool.and_eq_true, List.all_eq_true, decide_eq_true_eq]
      refine ⟨fun x hx => ?_, ih h.2⟩
      rcases mem_tblSet hx with rfl | hx
      · simp only; omega
      · exact h.1 x hx

theorem tblFind_tblMap {α : Type} (f : α → α) (t : Tbl α) (i : Nat) :
    tblFind (tblMap f t) i = (tblFind t i).map f := by
  induction t with
  | nil => rfl
  | cons e t ih =>
    show (if i = e.1 then some (f e.2) else tblFind (tblMap f t) i) = _
    rw [ih, tblFind]
    split_ifs <;> rfl

theorem tblMap_wf {α : Type} (f : α → α) (t : Tbl α) : tblWf (tblMap f t) = tblWf t := by
  induction t with
  | nil => rfl
  | cons e t ih =>
    show ((tblMap f t).all (fun x => decide (e.1 < x.1)) && tblWf (tblMap f t)) = _
    rw [ih, tblWf, tblMap, List.all_map]
    rfl

/-- An entry that a read finds is in the table. -/
theorem mem_of_tblFind {α : Type} {t : Tbl α} {i : Nat} {v : α} (h : tblFind t i = some v) : (i, v) ∈ t := by
  induction t with
  | nil => simp [tblFind] at h
  | cons e t ih =>
    obtain ⟨k, w⟩ := e
    simp only [tblFind] at h
    split_ifs at h with hk
    · subst hk; cases h; exact List.mem_cons_self
    · exact List.mem_cons_of_mem _ (ih h)

end Sys2Proof.Machine
end

