-- ==== Sys2Proof/Laws/Ops.lean ====
section
/-! SUPPORT. For each shared operation of Machine/Ops.lean, Machine/Session.lean and Machine/Program.lean, everything it
can do when it answers a next state. -/
namespace Sys2Proof.Machine

@[simp] theorem finish_ok (v : Value) (s : State) : finish (.ok v) s = returnValue v s := rfl

@[simp] theorem finish_error (e : CodecError) (s : State) : finish (.error e) s = raise e s := rfl

/-- An action on an open channel writes that channel's record and moves the index. -/
theorem onOpenChannel_next {ch : Nat} {f : Channel → Channel} {m n : Live} (h : onOpenChannel ch f m = .next n) :
    ∃ c, tblFind m.channels ch = some c ∧ c.session = .active ∧ n = (m.putChannel ch (f c)).advance := by
  unfold onOpenChannel at h
  split at h
  next c hc =>
    split_ifs at h with ha
    cases h
    exact ⟨c, hc, ha, rfl⟩
  next => cases h

/-- Opening needs the channel's settings, and starts a fresh session in whatever place the channel had. -/
theorem openTransport_next {p : Setup} {ch : Nat} {m n : Live} (h : openTransport p ch m = .next n) :
    (∃ params, tblFind p.transports ch = some params) ∧
      n = (m.putChannel ch (openedChannel (tblFind m.channels ch))).advance := by
  unfold openTransport at h
  split at h
  next params hp => cases h; exact ⟨⟨params, hp⟩, rfl⟩
  next => cases h

/-- Without an active session an action on an open channel is refused. -/
theorem onOpenChannel_refused {ch : Nat} {f : Channel → Channel} {m : Live}
    (h : ∀ c, tblFind m.channels ch = some c → c.session ≠ .active) :
    onOpenChannel ch f m = .refused .channelNotOpen := by
  unfold onOpenChannel
  split
  next c hc => exact if_neg (h c hc)
  next => rfl

/-- Sending either sends nothing, for a variable that holds an error, or hands one frame to an open channel. -/
theorem sendFrame_next {ch src : Nat} {m n : Live} (h : sendFrame ch src m = .next n) :
    ((∃ e, tblFind m.vars src = some (.error e)) ∧ n = m.advance) ∨
    ∃ f c, tblFind m.vars src = some (.ok (.frame f)) ∧ tblFind m.channels ch = some c ∧ c.session = .active ∧
      n = (m.putChannel ch { c with sent := c.sent ++ f }).advance := by
  unfold sendFrame at h
  split at h
  next => cases h
  next e he => cases h; exact .inl ⟨⟨e, he⟩, rfl⟩
  next v hv =>
    cases v <;> simp only [resultBytes] at h <;> try cases h
    next f =>
      obtain ⟨c, hc, ha, rfl⟩ := onOpenChannel_next h
      exact .inr ⟨f, c, hv, hc, ha, rfl⟩

/-- Ending a session always completes; it writes at most that channel's record. -/
theorem releaseTransport_next (how : Session) (ch : Nat) (m : Live) :
    (tblFind m.channels ch = none ∧ releaseTransport how ch m = .next m.advance) ∨
    ∃ c, tblFind m.channels ch = some c ∧
      releaseTransport how ch m = .next (m.putChannel ch (endSession how c)).advance := by
  unfold releaseTransport
  cases h : tblFind m.channels ch with
  | none => exact .inl ⟨rfl, rfl⟩
  | some c => exact .inr ⟨c, rfl, rfl⟩

/-- Retiring what an outcome completes. -/
theorem retireOutcome_next {d : Nat} {o : Outcome} {n : Live} (h : retireOutcome d o = .next n) :
    ∃ u, o = .next u ∧ n = u.toLive.retire d := by
  cases o with
  | next u => cases h; exact ⟨u, rfl, rfl⟩
  | fault f => cases h
  | refused r => cases h

/-- DECODE of a variable is the DECODE request of the bytes that variable holds. -/
theorem runDecodeVar_next {p : Setup} {d src : Nat} {m n : Live} (h : runDecodeVar p d src m = .next n) :
    ∃ f, tblFind m.vars src = some (.ok (.frame f)) ∧ runRequest p d (encodeRequest (.decode f)) m = .next n := by
  unfold runDecodeVar at h
  split at h
  next => cases h
  next r hr =>
    cases r with
    | error e => cases h
    | ok v => cases v <;> simp only [resultBytes] at h <;> first | exact ⟨_, hr, h⟩ | cases h

end Sys2Proof.Machine
end

