-- ==== Sys2Proof/Laws/PerInstr.lean ====
section
/-! SUPPORT. Statements made once per instruction: the encoder writes a request whose operands have their admitted forms. -/

/-- The request of an instruction is well formed and selects one of the five operations (R70, R71). -/
def Sys2Proof.Laws.EncodesAdmitted.Statement (i : Sys2Proof.Instr) : Prop :=
  (Sys2Proof.encodeRequest i).wellFormed = true ∧ (Sys2Proof.encodeRequest i).op < 5

namespace Sys2Proof.Laws.EncodesAdmitted

theorem bytes_admitted (bs : List Byte) : bytesAdmitted (bytesToNats bs) = true := by
  simp only [bytesAdmitted, bytesToNats, List.all_map, List.all_eq_true]
  exact fun b _ => decide_eq_true b.isLt

theorem crc8 (data : List Byte) : Statement (.crc8 data) :=
  ⟨bytes_admitted data, show 0 < 5 by decide⟩

theorem scaleEnc (fval : F64) : Statement (.scaleEnc fval) :=
  ⟨decide_eq_true fval.isLt, show 1 < 5 by decide⟩

theorem scaleDec (fx : S32) : Statement (.scaleDec fx) := by
  refine ⟨?_, show 2 < 5 by decide⟩
  have hlo := BitVec.le_toInt fx
  have hhi := BitVec.toInt_lt (x := fx)
  show (decide (-2 ^ 31 ≤ fx.toInt) && decide (fx.toInt ≤ 2 ^ 31 - 1)) = true
  rw [decide_eq_true (by omega), decide_eq_true (by omega)]; rfl

theorem encode (cmd : Byte) (fval : F64) (flag : Bool) : Statement (.encode cmd fval flag) := by
  refine ⟨?_, show 3 < 5 by decide⟩
  show (decide (cmd.toNat < 2 ^ 8) && decide (fval.toNat < 2 ^ 64) && decide ((if flag then 1 else 0) < 2)) = true
  rw [decide_eq_true cmd.isLt, decide_eq_true fval.isLt]
  cases flag <;> rfl

theorem decode (buf : List Byte) : Statement (.decode buf) :=
  ⟨bytes_admitted buf, show 4 < 5 by decide⟩

end Sys2Proof.Laws.EncodesAdmitted
end

