-- ==== Sys2Proof/Laws/Reframer.lean ====
section
/-! SUPPORT. What the scan leaves, and that SERVICE's bound on its passes does not matter once it is above the length. -/
namespace Sys2Proof.Machine

@[simp] theorem scan_nil : scan [] = [] := rfl

@[simp] theorem scan_sof (rest : List Byte) : scan (Config.sof :: rest) = Config.sof :: rest :=
  if_pos rfl

theorem scan_cons_of_ne {b : Byte} (rest : List Byte) (h : b ≠ Config.sof) : scan (b :: rest) = scan rest :=
  if_neg h

/-- The scan drops a prefix, and what it leaves is empty or starts with SOF. -/
theorem scan_spec (rbuf : List Byte) :
    ∃ dropped, rbuf = dropped ++ scan rbuf ∧ (scan rbuf = [] ∨ (scan rbuf).head? = some Config.sof) := by
  induction rbuf with
  | nil => exact ⟨[], rfl, .inl rfl⟩
  | cons b rest ih =>
    by_cases h : b = Config.sof
    · subst h; exact ⟨[], by rw [scan_sof]; rfl, .inr (by rw [scan_sof]; rfl)⟩
    · obtain ⟨d, hd, hs⟩ := ih
      rw [scan_cons_of_ne rest h]
      exact ⟨b :: d, by rw [List.cons_append, ← hd], hs⟩

theorem scan_length_le (rbuf : List Byte) : (scan rbuf).length ≤ rbuf.length := by
  obtain ⟨d, hd, -⟩ := scan_spec rbuf
  have := congrArg List.length hd
  rw [List.length_append] at this
  omega

/-- Any two bounds above the length give SERVICE the same outcome: each pass removes a byte or waits (R184). -/
theorem serviceLoop_fuel_irrelevant {n m : Nat} {rbuf : List Byte} (hn : rbuf.length < n) (hm : rbuf.length < m) :
    serviceLoop n rbuf = serviceLoop m rbuf := by
  induction n generalizing m rbuf with
  | zero => omega
  | succ n ih =>
    obtain ⟨m, rfl⟩ : ∃ k, m = k + 1 := ⟨m - 1, by omega⟩
    have hl := scan_length_le rbuf
    simp only [serviceLoop]
    by_cases hw : (scan rbuf).length < Config.frameLen
    · rw [if_pos hw, if_pos hw]
    · have hlen : 9 ≤ (scan rbuf).length := not_lt.mp hw
      have h9 : ((scan rbuf).drop Config.frameLen).length = (scan rbuf).length - 9 := List.length_drop
      rw [if_neg hw, if_neg hw,
        ih (m := m) (rbuf := (scan rbuf).drop Config.frameLen)
          (by omega) (by omega),
        ih (m := m) (rbuf := (scan rbuf).drop 1)
          (by rw [List.length_drop]; omega) (by rw [List.length_drop]; omega)]

end Sys2Proof.Machine
end

