-- ==== Sys2Proof/Tests/Slice0.lean ====
section
/-! SUPPORT. Small tests, with expected values from spec/95_test_vectors.md, and a witness for every statement that has
hypotheses. -/
namespace Sys2Proof.Tests

open Sys2Proof Sys2Proof.Machine

/-! ## Well-formedness: each check refuses an ill-formed request -/

theorem test_wf_refuses_wide_select : ({ op := 8 } : Request).wellFormed = false := by decide
theorem test_wf_refuses_wide_data_byte : ({ op := 0, data := [0, 256] } : Request).wellFormed = false := by decide
theorem test_wf_refuses_wide_fval : ({ op := 1, fval := 2 ^ 64 } : Request).wellFormed = false := by decide
theorem test_wf_refuses_fx_above_s32 : ({ op := 2, fx := 2147483648 } : Request).wellFormed = false := by decide
theorem test_wf_refuses_fx_below_s32 : ({ op := 2, fx := -2147483649 } : Request).wellFormed = false := by decide
theorem test_wf_refuses_wide_cmd : ({ op := 3, cmd := 256 } : Request).wellFormed = false := by decide
theorem test_wf_refuses_encode_fval : ({ op := 3, fval := 2 ^ 64 } : Request).wellFormed = false := by decide
theorem test_wf_refuses_flag_two : ({ op := 3, flag := 2 } : Request).wellFormed = false := by decide
theorem test_wf_refuses_wide_buf_byte : ({ op := 4, buf := [256] } : Request).wellFormed = false := by decide

/-! ## Decoding: the words of R70 and encodings of the programs of 95_test_vectors.md section 7 -/

theorem test_decode_crc8 : decodeTableWord 3 0b000 = some (.crc8 []) := by decide
theorem test_decode_scale_enc : decodeTableWord 3 0b001 = some (.scaleEnc 0) := by decide
theorem test_decode_scale_dec : decodeTableWord 3 0b010 = some (.scaleDec 0) := by decide
theorem test_decode_encode : decodeTableWord 3 0b011 = some (.encode 0 0 false) := by decide
theorem test_decode_decode : decodeTableWord 3 0b100 = some (.decode []) := by decide
theorem test_decode_reserved : decodeRequest { op := 5 } = .error .reservedOpsel := by decide

/-- P1 line 1: `op=3 cmd=0x01 fval=0x405FE00000000000 flag=1`. -/
theorem test_decode_p1_line1 :
    decodeRequest { op := 3, cmd := 0x01, fval := 0x405FE00000000000, flag := 1 } =
      .ok (.encode 0x01 0x405FE00000000000 true) := by decide

/-- P4 line 1: the literal 0.29 is 0x3FD28F5C28F5C28F. -/
theorem test_literal_nearest : floatPattern (.decimal false 29 (-2)) = 0x3FD28F5C28F5C28F := by decide +kernel

/-- R120, R125: the written-out 1000.0 is to_f64 of SCALE. -/
theorem test_scale_constant : toF64 Config.scale = scaleF64 := by decide +kernel

/-! ## Operations: vectors of 95_test_vectors.md -/

/-- CRC-11, the check value of R103. -/
theorem test_crc8_check_value : crc8 [0x31, 0x32, 0x33, 0x34, 0x35, 0x36, 0x37, 0x38, 0x39] = 0xF4 := by decide +kernel
/-- CRC-9. -/
theorem test_crc8_all_ones : crc8 [0xFF, 0xFF, 0xFF, 0xFF, 0xFF, 0xFF] = 0x48 := by decide +kernel

/-- SCL-11: the two modes differ, and a negative value truncates toward zero. -/
theorem test_scale_enc_modes :
    scaleEncode .binary64Rne 0xBFD28F5C28F5C28F = .ok (-290) ∧
    scaleEncode .exactReal 0xBFD28F5C28F5C28F = .ok (-289) := by decide +kernel
/-- SCL-17 and SCL-18: the lower edge. -/
theorem test_scale_enc_low_edge :
    scaleEncode .binary64Rne 0xC140624DD3126E97 = .ok 0x80000000 ∧
    scaleEncode .binary64Rne 0xC140624DD3126E98 = .error .valueRange := by decide +kernel

/-- SCD-7. -/
theorem test_scale_dec_smallest : scaleDecode 0x80000000 = 0xC140624DD2F1A9FC := by decide +kernel
/-- SCD-9. -/
theorem test_scale_dec_inexact : scaleDecode 999 = 0x3FEFF7CED916872B := by decide +kernel

/-- ENC-3. -/
theorem test_encode_worked_example :
    encodeFrame .binary64Rne 0x01 0x405FE00000000000 true =
      .ok [0xAA, 0x01, 0x0C, 0xF2, 0x01, 0x00, 0x01, 0xFC, 0x55] := by decide +kernel
/-- ENC-21: negative truncation. -/
theorem test_encode_negative :
    encodeFrame .binary64Rne 0x27 0xBFFFFF972474538F true =
      .ok [0xAA, 0x27, 0x31, 0xF8, 0xFF, 0xFF, 0x01, 0x98, 0x55] := by decide +kernel

/-- DEC-10: reserved FLAGS bits are ignored. -/
theorem test_decode_flags_ff :
    decodeFrame [0xAA, 0x01, 0x0C, 0xF2, 0x01, 0x00, 0xFF, 0x08, 0x55] =
      .ok { cmd := 0x01, value := 0x405FE00000000000, valueFx := 127500, flag := true } := by decide +kernel
/-- DEC-11: SOF and CRC both wrong. -/
theorem test_decode_framing_first :
    decodeFrame [0xAB, 0x01, 0x0C, 0xF2, 0x01, 0x00, 0x01, 0x00, 0x55] = .error .framing := by decide +kernel

/-- Program P3: the whole stream in one batch. -/
theorem test_service_p3 :
    service [0x13, 0xAA, 0x00, 0xAA, 0x01, 0x0C, 0xF2, 0x01, 0x00, 0x01, 0xFC, 0x55, 0xAA, 0x02, 0x18, 0xFD, 0xFF, 0xFF,
      0x00, 0x6E, 0x55, 0xAA, 0xAA, 0xFF, 0xFF, 0xFF, 0xFF, 0x01, 0xD9, 0x55, 0xAA, 0x01] =
    ([0xAA, 0x01],
      [{ cmd := 0x01, value := 0x405FE00000000000, valueFx := 127500, flag := true },
       { cmd := 0xAA, value := 0xBF50624DD2F1A9FC, valueFx := -1, flag := true }]) := by decide +kernel

/-- R73: a reserved OPSEL completes with ILLEGAL_OP as the first request after reset. -/
theorem test_step_reserved :
    step (State.reset.withFetchWord 8 6) =
      .next { State.reset with
        program := [.request 0 { op := 6 }], pc := 1, vars := [(0, .error .illegalOp)] } := rfl

/-! ## Witnesses: concrete inputs that meet the hypotheses of the statements -/

/-- The reset state with a program. -/
def withLines (lines : List HostAction) : State :=
  { State.reset with program := lines }

/-- The frame of ENC-3. -/
def frame3 : List Byte := [0xAA, 0x01, 0x0C, 0xF2, 0x01, 0x00, 0x01, 0xFC, 0x55]

/-- The frame of ENC-4. -/
def frame4 : List Byte := [0xAA, 0x02, 0x18, 0xFC, 0xFF, 0xFF, 0x00, 0x6E, 0x55]

/-- An open channel with an empty buffer. -/
def openChannel0 : Channel :=
  { session := .active
    waited := 0
    sent := []
    rbuf := []
    delivered := [] }

/-- Settings of a transport, with a startup delay of 2. -/
def settings : HostParams :=
  { device := "tty", startupDelay := 2, ioTimeout := 1 }

/-- A state whose variable 1 holds a frame, variable 2 an error and variable 5 a CRC, and whose channel 0 is open. -/
def busy (lines : List HostAction) : State :=
  { withLines lines with
    transports := [(0, settings)]
    vars := [(1, .ok (.frame frame3)), (2, .error .valueRange), (5, .ok (.crc 0xF4))]
    channels := [(0, openChannel0)] }

/-- Crc8Linear; the sum is CRC-19's operand. -/
theorem witness_Crc8Linear :
    ([0x01, 0x0C, 0xF2, 0x01, 0x00, 0x01] : List Byte).length = ([0x02, 0x18, 0xFC, 0xFF, 0xFF, 0x00] : List Byte).length ∧
    crc8 (xorBytes [0x01, 0x0C, 0xF2, 0x01, 0x00, 0x01] [0x02, 0x18, 0xFC, 0xFF, 0xFF, 0x00]) = 0x92 := by decide +kernel

theorem witness_Crc8Residue : frame3.length = 9 ∧ crc8 (slice frame3 1 7) = 0x00 := by decide +kernel

/-- Crc8DetectsOneAndTwoBitErrors, at the first and last bit; the syndromes are CRC-S's corners. -/
theorem witness_Crc8DetectsOneAndTwoBitErrors :
    (List.replicate 6 (0x00 : Byte)).length = 6 ∧ (0 < 48 ∧ 47 < 48 ∧ (0 : Nat) ≠ 47) ∧
    crc8 (flipBit (List.replicate 6 0x00) 0) = 0x29 ∧ crc8 (flipBit (List.replicate 6 0x00) 47) = 0x89 := by decide +kernel

/-- FmulRoundsToNearestEven: 0.29 by 1000.0 below the bound, 1e308 by 1000.0 above it. -/
theorem witness_FmulRoundsToNearestEven :
    isFinite 0x3FD28F5C28F5C28F = true ∧ isFinite 0x408F400000000000 = true ∧ isFinite 0x7FE1CCF385EBC8A0 = true ∧
    |real 0x3FD28F5C28F5C28F * real 0x408F400000000000| < 2 ^ 1024 - 2 ^ 970 ∧
    2 ^ 1024 - 2 ^ 970 ≤ |real 0x7FE1CCF385EBC8A0 * real 0x408F400000000000| := by decide +kernel

/-- FdivRoundsToNearestEven: 127500.0 by 1000.0 below the bound, 1e308 by 0.001 above it. -/
theorem witness_FdivRoundsToNearestEven :
    isFinite 0x40FF20C000000000 = true ∧ isFinite 0x408F400000000000 = true ∧ isFinite 0x7FE1CCF385EBC8A0 = true ∧
    isFinite 0x3F50624DD2F1A9FC = true ∧ real 0x408F400000000000 ≠ 0 ∧ real 0x3F50624DD2F1A9FC ≠ 0 ∧
    |real 0x40FF20C000000000 / real 0x408F400000000000| < 2 ^ 1024 - 2 ^ 970 ∧
    2 ^ 1024 - 2 ^ 970 ≤ |real 0x7FE1CCF385EBC8A0 / real 0x3F50624DD2F1A9FC| := by decide +kernel

theorem witness_ToF64Exact :
    (-2 ^ 53 ≤ (-2 ^ 53 : Int) ∧ (2 ^ 53 : Int) ≤ 2 ^ 53) ∧ toF64 (-2 ^ 53) = 0xC340000000000000 ∧
    toF64 (2 ^ 53) = 0x4340000000000000 := by decide +kernel

/-- ScaleEncCompletes, in range at both edges (SCL-15, SCL-17), out of range just beyond (SCL-16, SCL-18). -/
theorem witness_ScaleEncCompletes_edges :
    truncReal (scaledValue .binary64Rne 0x4140624DD2F1A9FB) = 2 ^ 31 - 1 ∧
    truncReal (scaledValue .binary64Rne 0xC140624DD3126E97) = -2 ^ 31 ∧
    2 ^ 31 - 1 < truncReal (scaledValue .binary64Rne 0x4140624DD2F1A9FC) ∧
    truncReal (scaledValue .binary64Rne 0xC140624DD3126E98) < -2 ^ 31 := by decide +kernel

/-- ScaleEncCompletes: a scalable operand in each mode, and three that are not (SCL-20, SCL-22, SCL-23). -/
theorem witness_ScaleEncCompletes_scalable :
    Scalable .binary64Rne 0x4140624DD2F1A9FB ∧ Scalable .exactReal 0x7FE1CCF385EBC8A0 ∧
    ¬ Scalable .binary64Rne 0x7FF8000000000000 ∧ ¬ Scalable .exactReal 0xFFF0000000000000 ∧
    ¬ Scalable .binary64Rne 0x7FE1CCF385EBC8A0 := by unfold Scalable; decide +kernel

/-- ScaleEncIntervals: 0.0009 is in both intervals of n = 0, and -1.9999 in that of -1999. -/
theorem witness_ScaleEncIntervals :
    Scalable .binary64Rne 0x3F4D7DBF487FCB92 ∧ Scalable .binary64Rne 0xBFFFFF972474538F ∧
    (0 ≤ scaledValue .binary64Rne 0x3F4D7DBF487FCB92 ∧ scaledValue .binary64Rne 0x3F4D7DBF487FCB92 < 1) ∧
    ((-1999 : ℚ) - 1 < scaledValue .binary64Rne 0xBFFFFF972474538F ∧
      scaledValue .binary64Rne 0xBFFFFF972474538F ≤ -1999) := by unfold Scalable; decide +kernel

/-- ScaleDecCompletes and ScaleDecStrictlyIncreasing, at the ends of s32 and at zero. -/
theorem witness_ScaleDecStrictlyIncreasing :
    (0x80000000 : S32).toInt < (0x7FFFFFFF : S32).toInt ∧ (0 : S32).toInt = 0 ∧ (1000 : Int) ∣ (0 : S32).toInt ∧
    scaleDecode 0 = 0x0000000000000000 := by decide +kernel

/-- RoundTripBound and DecodeOfEncode: 127.5, whose scaled value is an integer, and 0.0009, whose is not (RT-3). -/
theorem witness_RoundTripBound :
    scaleEncode .binary64Rne 0x405FE00000000000 = .ok 127500 ∧ real 0x405FE00000000000 * 1000 = 127500 ∧
    scaleEncode .binary64Rne 0x3F4D7DBF487FCB92 = .ok 0 ∧ scaleEncode .exactReal 0x3F4D7DBF487FCB92 = .ok 0 ∧
    encodeFrame .exactReal 0x01 0x405FE00000000000 true = .ok frame3 := by decide +kernel

theorem witness_MultiplesOf1000RoundTrip : (1000 : Int) ∣ (-2147483000 : S32).toInt := by decide +kernel

/-- EncodeCompletes and EncodeInjective: a value that scales, one more, and one that does not (ENC-15). -/
theorem witness_EncodeCompletes :
    scaleEncode State.reset.scaleProduct 0x405FE00000000000 = .ok 127500 ∧
    scaleEncode State.reset.scaleProduct 0x4146E36000000000 = .error .valueRange ∧
    encodeFrame .binary64Rne 0x01 0x405FE00000000000 true = .ok frame3 ∧
    encodeFrame .binary64Rne 0x02 0xBFF0000000000000 false = .ok frame4 := by decide +kernel

/-- EncodedFrameIsValid and ReservedFlagBitsZeroAndIgnored. -/
theorem witness_EncodedFrameIsValid :
    exec (.encode 0x01 0x405FE00000000000 true) State.reset =
      .next { State.reset with out := some (.ok (.frame frame3)) } := by
  rw [exec, execEncode, show encodeFrame State.reset.scaleProduct 0x01 0x405FE00000000000 true = .ok frame3 by
    decide +kernel]
  rfl

theorem witness_LittleEndianInverse : ([0x00, 0x00, 0x00, 0x80] : List Byte).length = 4 := by decide

theorem witness_DecodeCompletes :
    ([] : List Byte).length ≠ 9 ∧ (List.replicate 8 (0xAA : Byte)).length ≠ 9 ∧ (frame3 ++ [0x00]).length ≠ 9 := by decide

/-- DecodeAcceptsExactlyValidFrames and BitFlipsDetected: a valid frame, the edges of the bit ranges, and three byte
sequences that are no valid frames. -/
theorem witness_BitFlipsDetected :
    validFrame frame3 = true ∧ validFrame [] = false ∧ decodeFrame (flipBit frame3 7) = .error .framing ∧
    decodeFrame (flipBit frame3 8) = .error .checksum ∧ decodeFrame (flipBit frame3 63) = .error .checksum ∧
    decodeFrame (flipBit frame3 71) = .error .framing ∧
    decodeFrame (flipBit (flipBit frame3 8) 55) = .error .checksum := by decide +kernel

/-- BatchReceiveEqualsBytewise and PerfectTransportDeliversEveryFrame: two frames of ENCODE and an empty buffer. -/
theorem witness_PerfectTransportDeliversEveryFrame :
    (∀ f ∈ [frame3, frame4], ∃ cmd fval flag, encodeFrame .binary64Rne cmd fval flag = .ok f) ∧
    openChannel0.rbuf = [] ∧ frame3 ≠ [] := by
  refine ⟨?_, rfl, by decide⟩
  simp only [List.mem_cons, List.not_mem_nil, or_false, forall_eq_or_imp, forall_eq]
  exact ⟨⟨0x01, 0x405FE00000000000, true, by decide +kernel⟩, ⟨0x02, 0xBFF0000000000000, false, by decide +kernel⟩⟩

theorem witness_WindowErrors : frame4.length = 9 ∧ frame4[0]? = some 0xAA := by decide

/-- RequestDecodingFaithful: a well-formed request of an operation at an operand's edge, one with a reserved select and
operands that would be ill formed elsewhere, and one that is ill formed. -/
theorem witness_RequestDecodingFaithful :
    (({ op := 2, fx := -2147483648 } : Request).wellFormed = true ∧ ({ op := 2, fx := -2147483648 } : Request).op < 5) ∧
    (({ op := 5, cmd := 300 } : Request).wellFormed = true ∧ 5 ≤ ({ op := 5, cmd := 300 } : Request).op) ∧
    ({ op := 2, fx := 2147483648 } : Request).wellFormed = false := by decide

/-- StepRunsDecodedRequest, EveryAdmittedRequestCompletes. -/
theorem witness_StepRunsDecodedRequest :
    (withLines [.request 4 { op := 0, data := [0x01] }]).program[0]? = some (.request 4 { op := 0, data := [0x01] }) ∧
    decodeRequest { op := 0, data := [0x01] } = .ok (.crc8 [0x01]) ∧
    ({ op := 0, data := [0x01] } : Request).wellFormed = true ∧
    exec (.crc8 [0x01]) State.reset = .next { State.reset with out := some (.ok (.crc (crc8 [0x01]))) } :=
  ⟨rfl, by decide, by decide, rfl⟩

theorem witness_ReservedOpselCompletesIllegalOp :
    (withLines [.request 0 { op := 7, flag := 9 }]).program[0]? = some (.request 0 { op := 7, flag := 9 }) ∧
    ({ op := 7, flag := 9 } : Request).op = 7 := by decide

theorem witness_UnrepresentableOperandRefused :
    (withLines [.request 0 { op := 3, cmd := 256 }]).program[0]? = some (.request 0 { op := 3, cmd := 256 }) ∧
    ({ op := 3, cmd := 256 } : Request).wellFormed = false := by decide

theorem witness_ResultDependsOnOperandsOnly :
    (busy []).scaleProduct = State.reset.scaleProduct ∧ busy [] ≠ State.reset := by decide

theorem witness_AdjacentRequestsCommute :
    (1 : Nat) ≠ 2 ∧ ({ op := 4 } : Request).wellFormed = true ∧ ({ op := 6 } : Request).wellFormed = true ∧
    tblWf (busy []).vars = true := by decide

/-- DecodeOfVariable and SendHandsOverTheFrame: a variable with a frame, one with an error, an open channel. -/
theorem witness_SendHandsOverTheFrame :
    (busy [.send 0 1]).program[0]? = some (.send 0 1) ∧ (busy [.decodeVar 3 1]).program[0]? = some (.decodeVar 3 1) ∧
    tblFind (busy []).vars 1 = some (.ok (.frame frame3)) ∧ tblFind (busy []).vars 2 = some (.error .valueRange) ∧
    tblFind (busy []).channels 0 = some openChannel0 ∧ openChannel0.session = .active := by decide

theorem witness_ReceiveServicesItsChannel :
    (busy [.receive 0 0xAA]).program[0]? = some (.receive 0 0xAA) ∧
    tblFind (busy [.receive 0 0xAA]).channels 0 = some openChannel0 := by decide

/-- OpeningStartsEmptyAndWaits, with a wait exactly as long as the delay, and a channel without settings. -/
theorem witness_OpeningStartsEmptyAndWaits :
    (busy [.openChannel 0, .wait 0 2]).program[0]? = some (.openChannel 0) ∧
    (busy [.openChannel 0, .wait 0 2]).program[1]? = some (.wait 0 2) ∧
    tblFind (busy [.openChannel 0, .wait 0 2]).transports 0 = some settings ∧ settings.startupDelay ≤ 2 ∧
    (busy [.openChannel 1]).program[0]? = some (.openChannel 1) ∧
    tblFind (busy [.openChannel 1]).transports 1 = none := by decide

/-- InactiveChannelRefusesUntilOpened: a channel never opened, and each action that is refused on it. -/
theorem witness_InactiveChannelRefusesUntilOpened :
    ¬ SessionActive (busy []) 1 ∧ (busy [.wait 1 0]).program[0]? = some (.wait 1 0) ∧
    (busy [.receive 1 0]).program[0]? = some (.receive 1 0) ∧ (busy [.send 1 1]).program[0]? = some (.send 1 1) ∧
    tblFind (busy [.send 1 1]).vars 1 = some (.ok (.frame frame3)) ∧
    (∃ t, step (busy [.openChannel 0]) = .next t) :=
  ⟨(fun ⟨c, h, _⟩ => nomatch (show none = some c from h)), rfl, rfl, rfl, rfl, _, rfl⟩

/-- HostExitReleasesEveryTransport: an empty program with a session still active. -/
theorem witness_HostExitReleasesEveryTransport :
    (busy []).program[(busy []).pc]? = none ∧ SessionActive (busy []) 0 ∧
    step (busy []) = .next { busy [] with channels := [(0, { openChannel0 with session := .closed })] } :=
  ⟨rfl, ⟨_, rfl, rfl⟩, rfl⟩

/-- ReadsWithoutResultRefused: a variable with no result, one with a CRC and one with an error. -/
theorem witness_ReadsWithoutResultRefused :
    (busy [.decodeVar 0 9]).program[0]? = some (.decodeVar 0 9) ∧ (busy [.send 0 9]).program[0]? = some (.send 0 9) ∧
    tblFind (busy []).vars 9 = none ∧ tblFind (busy []).vars 5 = some (.ok (.crc 0xF4)) ∧
    tblFind (busy []).vars 2 = some (.error .valueRange) ∧ ∀ f, Value.crc 0xF4 ≠ .frame f :=
  ⟨rfl, rfl, rfl, rfl, rfl, by rintro f ⟨⟩⟩

/-- SessionEndReleasesTheTransport, both ends of a session, with a receive that follows. -/
theorem witness_SessionEndReleasesTheTransport :
    (busy [.transportError 0, .receive 0 0]).program[0]? = some (.transportError 0) ∧
    (busy [.closeChannel 0, .receive 0 0]).program[0]? = some (.closeChannel 0) ∧
    (busy [.closeChannel 0, .receive 0 0]).program[1]? = some (.receive 0 0) ∧
    tblFind (busy []).channels 0 = some openChannel0 := by decide

/-- StepKeepsConfigurationAndAdvances and BlockAndTransportApart: a step with an action and one past the end. -/
theorem witness_StepKeepsConfigurationAndAdvances :
    step (withLines [.request 0 { op := 5 }]) =
      .next { withLines [.request 0 { op := 5 }] with pc := 1, vars := [(0, .error .illegalOp)] } ∧
    step (withLines []) = .next (withLines []) ∧
    step (busy [.closeChannel 0]) =
      .next { busy [.closeChannel 0] with pc := 1, channels := [(0, { openChannel0 with session := .closed })] } :=
  ⟨rfl, rfl, rfl⟩

/-- StepKeepsInvariant: a state other than reset that meets the invariant and takes a step. -/
theorem witness_StepKeepsInvariant :
    MachineInv (busy [.closeChannel 0]) ∧ ∃ t, step (busy [.closeChannel 0]) = .next t :=
  ⟨⟨rfl, by decide, by decide, by decide, by decide, by decide +kernel, by decide +kernel⟩, _, rfl⟩

end Sys2Proof.Tests
end

section
/-! Binary64 rounding (00_scope.md R13). A magnitude pattern (exponent and fraction bits, read as one number) denotes
`magnitude` units of 2^-1074, strictly increasing in the pattern. `roundPattern` is the nearest pattern of the unbounded
scale, ties to even (`roundPattern_nearest`); the overflow threshold is then the midpoint between the greatest finite
magnitude and the pattern of infinity. -/
namespace Sys2Proof.Machine

/-! ### The fields of a binary64 -/

/-- The exponent and fraction bits of a binary64 as one number. -/
def magPattern (x : F64) : Nat :=
  x.toNat % 2 ^ 63

/-- The units of 2^-1074 that a magnitude pattern denotes; past `infPattern` the scale of finite binary64 continues. -/
def magnitude (p : Nat) : Nat :=
  if p / 2 ^ 52 = 0 then p % 2 ^ 52 else (2 ^ 52 + p % 2 ^ 52) * 2 ^ (p / 2 ^ 52 - 1)

theorem expField_eq (x : F64) : expField x = magPattern x / 2 ^ 52 := by
  simp only [expField, magPattern, BitVec.extractLsb'_toNat, Nat.shiftRight_eq_div_pow]
  omega

theorem fraction_eq (x : F64) : fraction x = magPattern x % 2 ^ 52 := by
  simp only [fraction, magPattern, BitVec.extractLsb'_toNat, Nat.shiftRight_eq_div_pow]
  omega

theorem units_eq (x : F64) : units x = magnitude (magPattern x) := by
  rw [units, expField_eq, fraction_eq, magnitude]

theorem isFinite_iff (x : F64) : isFinite x = true ↔ magPattern x < infPattern := by
  have hx : magPattern x < 2 ^ 63 := Nat.mod_lt _ (by decide)
  simp only [isFinite, expField_eq, infPattern, bne_iff_ne]
  omega

theorem fraction_even {x : F64} (h : magPattern x % 2 = 0) : fraction x % 2 = 0 := by
  rw [fraction_eq]
  omega

theorem fields_of_magPattern_eq_infPattern {x : F64} (h : magPattern x = infPattern) :
    expField x = 2047 ∧ fraction x = 0 := by
  rw [expField_eq, fraction_eq, h]
  decide

theorem packF64_toNat (neg : Bool) (p : Nat) :
    (packF64 neg p).toNat = (if neg then 2 ^ 63 else 0) + min p infPattern := by
  have hp : min p infPattern < 2 ^ 63 := (Nat.min_le_right _ _).trans_lt (by decide)
  rw [packF64, BitVec.toNat_ofNat, Nat.mod_eq_of_lt]
  split <;> omega

@[simp] theorem magPattern_packF64 (neg : Bool) (p : Nat) : magPattern (packF64 neg p) = min p infPattern := by
  have hp : min p infPattern < 2 ^ 63 := (Nat.min_le_right _ _).trans_lt (by decide)
  rw [magPattern, packF64_toNat]
  split <;> omega

@[simp] theorem signBit_packF64 (neg : Bool) (p : Nat) : signBit (packF64 neg p) = neg := by
  have hp : min p infPattern < 2 ^ 63 := (Nat.min_le_right _ _).trans_lt (by decide)
  rw [signBit, BitVec.getLsbD, packF64_toNat, Nat.testBit_eq_decide_div_mod_eq]
  cases neg
  · simp only [decide_eq_false_iff_not, Bool.false_eq_true, if_false]; omega
  · simp only [decide_eq_true_eq, if_true]; omega

/-! ### The scale of magnitudes -/

/-- A significand at an exponent step; the significand may carry into the next step. -/
theorem magnitude_significand {k m : Nat} (hm : m ≤ 2 ^ 53) (hk : k = 0 ∨ 2 ^ 52 ≤ m) :
    magnitude (k * 2 ^ 52 + m) = m * 2 ^ k := by
  rcases Nat.lt_or_ge m (2 ^ 52) with h | h
  · obtain rfl : k = 0 := by omega
    rw [magnitude, if_pos (by omega)]
    omega
  · rcases Nat.lt_or_ge m (2 ^ 53) with h' | h'
    · have he : (k * 2 ^ 52 + m) / 2 ^ 52 = k + 1 := by omega
      have hf : 2 ^ 52 + (k * 2 ^ 52 + m) % 2 ^ 52 = m := by omega
      rw [magnitude, he, hf, if_neg k.succ_ne_zero, Nat.add_sub_cancel]
    · obtain rfl : m = 2 ^ 53 := by omega
      have he : (k * 2 ^ 52 + 2 ^ 53) / 2 ^ 52 = k + 2 := by omega
      have hf : 2 ^ 52 + (k * 2 ^ 52 + 2 ^ 53) % 2 ^ 52 = 2 ^ 52 := by omega
      rw [magnitude, he, hf, if_neg (k + 1).succ_ne_zero, Nat.add_sub_assoc (by decide)]
      ring

/-- Every pattern is a significand at an exponent step. -/
theorem exists_significand (p : Nat) :
    ∃ k m, p = k * 2 ^ 52 + m ∧ m < 2 ^ 53 ∧ (k = 0 ∨ 2 ^ 52 ≤ m) := by
  rcases Nat.lt_or_ge p (2 ^ 52) with h | h
  · exact ⟨0, p, by omega, by omega, .inl rfl⟩
  · exact ⟨p / 2 ^ 52 - 1, 2 ^ 52 + p % 2 ^ 52, by omega, by omega, .inr (by omega)⟩

theorem magnitude_strictMono : StrictMono magnitude := by
  refine strictMono_nat_of_lt_succ fun p => ?_
  obtain ⟨k, m, rfl, hm, hk⟩ := exists_significand p
  rw [Nat.add_assoc, magnitude_significand hm.le hk, magnitude_significand hm (hk.imp_right Nat.le_succ_of_le)]
  exact Nat.mul_lt_mul_of_pos_right m.lt_succ_self (by positivity)

@[simp] theorem magnitude_zero : magnitude 0 = 0 := rfl

/-- At the exponent step k, a magnitude is on the grid of step 2^k or below the significands of that step. -/
theorem magnitude_on_grid_or_below (p k : Nat) :
    (∃ j, magnitude p = j * 2 ^ k) ∨ (k ≠ 0 ∧ magnitude p < 2 ^ 52 * 2 ^ k) := by
  obtain ⟨l, m, rfl, hm, hl⟩ := exists_significand p
  rw [magnitude_significand hm.le hl]
  rcases Nat.lt_or_ge l k with h | h
  · refine .inr ⟨by omega, ?_⟩
    calc m * 2 ^ l < 2 ^ 53 * 2 ^ l := Nat.mul_lt_mul_of_pos_right hm (by positivity)
      _ = 2 ^ 52 * 2 ^ (l + 1) := by ring
      _ ≤ 2 ^ 52 * 2 ^ k := Nat.mul_le_mul_left _ (Nat.pow_le_pow_right (by decide) h)
  · exact .inl ⟨m * 2 ^ (l - k), by rw [Nat.mul_assoc, ← pow_add, Nat.sub_add_cancel h]⟩

/-! ### Rounding to nearest, ties to even -/

/-- A natural within 1/2 of t is nearest to t, and a tie with another one is at distance 1/2. -/
theorem nearest_of_abs_sub_le_half {M j : Nat} {t : ℚ} (h : |(M : ℚ) - t| ≤ 1 / 2) :
    |(M : ℚ) - t| ≤ |(j : ℚ) - t| ∧ (|(M : ℚ) - t| = |(j : ℚ) - t| → j ≠ M → |(M : ℚ) - t| = 1 / 2) := by
  rcases eq_or_ne j M with rfl | hj
  · exact ⟨le_rfl, fun _ hne => absurd rfl hne⟩
  · have hgap : (1 : ℚ) ≤ |(j : ℚ) - M| := by
      exact_mod_cast Int.one_le_abs (sub_ne_zero.2 (Nat.cast_injective.ne hj : (j : ℤ) ≠ M))
    have htri : |(j : ℚ) - M| ≤ |(j : ℚ) - t| + |(M : ℚ) - t| := by
      simpa only [abs_sub_comm t] using abs_sub_le (j : ℚ) t M
    exact ⟨by linarith, fun htie _ => by linarith⟩

/-- `roundHalfEven n D` is within 1/2 of n/D, and even at distance 1/2. -/
theorem roundHalfEven_within_half (n : Nat) {D : Nat} (hD : 0 < D) :
    |(roundHalfEven n D : ℚ) - n / D| ≤ 1 / 2 ∧
    (|(roundHalfEven n D : ℚ) - n / D| = 1 / 2 → roundHalfEven n D % 2 = 0) := by
  have hD' : (0 : ℚ) < D := by exact_mod_cast hD
  have hr : ((n % D : ℕ) : ℚ) < D := by exact_mod_cast Nat.mod_lt n hD
  have hn : (n : ℚ) / D = (n / D : ℕ) + ((n % D : ℕ) : ℚ) / D := by
    rw [eq_comm, ← eq_sub_iff_add_eq', div_eq_iff hD'.ne', sub_mul, div_mul_cancel₀ _ hD'.ne', eq_sub_iff_add_eq]
    exact_mod_cast Nat.mod_add_div' n D
  have hfloor : |((n / D : ℕ) : ℚ) - n / D| = ((n % D : ℕ) : ℚ) / D := by
    rw [hn, sub_add_cancel_left, abs_neg, abs_of_nonneg (by positivity)]
  have hceil : |((n / D + 1 : ℕ) : ℚ) - n / D| = 1 - ((n % D : ℕ) : ℚ) / D := by
    rw [hn, Nat.cast_succ, add_sub_add_left_eq_sub, abs_of_nonneg (sub_nonneg.2 ((div_le_one hD').2 hr.le))]
  unfold roundHalfEven
  split_ifs with hlt hgt heven
  · have hf : ((n % D : ℕ) : ℚ) / D < 1 / 2 := by
      rw [div_lt_div_iff₀ hD' two_pos]; exact_mod_cast (by omega : n % D * 2 < 1 * D)
    exact ⟨by linarith, fun h => by linarith⟩
  · have hf : 1 / 2 < ((n % D : ℕ) : ℚ) / D := by
      rw [div_lt_div_iff₀ two_pos hD']; exact_mod_cast (by omega : 1 * D < n % D * 2)
    exact ⟨by linarith, fun h => by linarith⟩
  all_goals
    have hf : ((n % D : ℕ) : ℚ) / D = 1 / 2 := by
      rw [div_eq_div_iff hD'.ne' two_ne_zero]; exact_mod_cast (by omega : n % D * 2 = 1 * D)
  · exact ⟨by linarith, fun _ => heven⟩
  · exact ⟨by linarith, fun _ => by omega⟩

theorem le_roundHalfEven {n D c : Nat} (hD : 0 < D) (h : c * D ≤ n) : c ≤ roundHalfEven n D := by
  have hq : c ≤ n / D := (Nat.le_div_iff_mul_le hD).2 h
  unfold roundHalfEven
  split_ifs <;> omega

theorem roundHalfEven_le {n D c : Nat} (hD : 0 < D) (h : n < c * D) : roundHalfEven n D ≤ c := by
  have hq : n / D < c := (Nat.div_lt_iff_lt_mul hD).2 h
  unfold roundHalfEven
  split_ifs <;> omega

/-- `P` is the magnitude pattern nearest to t units, even in a tie: on the scale that continues past `infPattern`. -/
def NearestEven (t : ℚ) (P : Nat) : Prop :=
  ∀ p : Nat, |(magnitude P : ℚ) - t| ≤ |(magnitude p : ℚ) - t| ∧
    (|(magnitude P : ℚ) - t| = |(magnitude p : ℚ) - t| → p ≠ P → P % 2 = 0)

/-- The exponent step that `roundPattern` rounds at keeps n/d in range of a 53-bit significand. -/
theorem roundPattern_step_bounds (n : Nat) {d : Nat} (hd : 0 < d) :
    n < 2 ^ 53 * (d * 2 ^ (Nat.log2 (n / d) - 52)) ∧
    (Nat.log2 (n / d) - 52 = 0 ∨ 2 ^ 52 * (d * 2 ^ (Nat.log2 (n / d) - 52)) ≤ n) := by
  have hupper : n / d < 2 ^ 53 * 2 ^ (Nat.log2 (n / d) - 52) := by
    rw [← pow_add]
    exact Nat.lt_log2_self.trans_le (Nat.pow_le_pow_right (by decide) (by omega))
  refine ⟨?_, or_iff_not_imp_left.2 fun hk => ?_⟩
  · calc n < 2 ^ 53 * 2 ^ (Nat.log2 (n / d) - 52) * d := (Nat.div_lt_iff_lt_mul hd).1 hupper
      _ = _ := by ring
  · have hne : n / d ≠ 0 := fun h => hk (by simp [h])
    calc 2 ^ 52 * (d * 2 ^ (Nat.log2 (n / d) - 52)) = 2 ^ (52 + (Nat.log2 (n / d) - 52)) * d := by rw [pow_add]; ring
      _ = 2 ^ Nat.log2 (n / d) * d := by rw [Nat.add_sub_of_le (by omega)]
      _ ≤ n := (Nat.le_div_iff_mul_le hd).1 (Nat.log2_self_le hne)

/-- Distances on the grid of step 2^k, in grid steps. -/
theorem abs_grid_sub_div (j n k : Nat) {d : Nat} (hd : 0 < d) :
    |((j * 2 ^ k : ℕ) : ℚ) - n / d| = |(j : ℚ) - n / (d * 2 ^ k : ℕ)| * 2 ^ k := by
  have hd' : (d : ℚ) ≠ 0 := by exact_mod_cast hd.ne'
  have h2k : (0 : ℚ) < 2 ^ k := by positivity
  have hsub : ((j * 2 ^ k : ℕ) : ℚ) - n / d = ((j : ℚ) - n / (d * 2 ^ k : ℕ)) * 2 ^ k := by
    push_cast
    field_simp
  rw [hsub, abs_mul, abs_of_pos h2k]

/-- Of two values up to t the lesser is farther from it. -/
theorem abs_sub_lt_of_lt_of_le {m c t : ℚ} (hmc : m < c) (hct : c ≤ t) : |c - t| < |m - t| := by
  rw [abs_of_nonpos (sub_nonpos.2 hct), abs_of_nonpos (sub_nonpos.2 (hmc.le.trans hct))]
  linarith

/-- `roundPattern` rounds to the nearest magnitude, ties to even: on the grid of its exponent step by
`roundHalfEven_within_half`, and every magnitude off that grid lies below its significands, farther away. -/
theorem roundPattern_nearest (n : Nat) {d : Nat} (hd : 0 < d) : NearestEven ((n : ℚ) / d) (roundPattern n d) := by
  intro p
  obtain ⟨hupper, hlower⟩ := roundPattern_step_bounds n hd
  rw [roundPattern]
  generalize Nat.log2 (n / d) - 52 = k at hupper hlower ⊢
  have hD : 0 < d * 2 ^ k := by positivity
  have hk : k = 0 ∨ 2 ^ 52 ≤ roundHalfEven n (d * 2 ^ k) := hlower.imp_right (le_roundHalfEven hD)
  have hP := magnitude_significand (roundHalfEven_le hD hupper) hk
  obtain ⟨hhalf, heven⟩ := roundHalfEven_within_half n hD
  generalize roundHalfEven n (d * 2 ^ k) = M at hk hP hhalf heven ⊢
  rw [hP]
  have hscale (j : Nat) := abs_grid_sub_div j n k hd
  have h2k : (0 : ℚ) < 2 ^ k := by positivity
  have hgrid (j : Nat) : |((M * 2 ^ k : ℕ) : ℚ) - n / d| ≤ |((j * 2 ^ k : ℕ) : ℚ) - n / d| := by
    rw [hscale, hscale]
    exact mul_le_mul_of_nonneg_right (nearest_of_abs_sub_le_half hhalf).1 h2k.le
  rcases magnitude_on_grid_or_below p k with ⟨j, hj⟩ | ⟨hk0, hbelow⟩
  · rw [hj]
    refine ⟨hgrid j, fun htie hne => ?_⟩
    have hjM : j ≠ M := by
      rintro rfl
      exact hne (magnitude_strictMono.injective (hj.trans hP.symm))
    rw [hscale, hscale] at htie
    have := heven ((nearest_of_abs_sub_le_half hhalf).2 (mul_right_cancel₀ h2k.ne' htie) hjM)
    omega
  · have hx : ((2 ^ 52 * 2 ^ k : ℕ) : ℚ) ≤ n / d := by
      rw [le_div_iff₀ (by exact_mod_cast hd)]
      have := hlower.resolve_left hk0
      exact_mod_cast (by linarith : 2 ^ 52 * 2 ^ k * d ≤ n)
    have hlt : (magnitude p : ℚ) < ((2 ^ 52 * 2 ^ k : ℕ) : ℚ) := by exact_mod_cast hbelow
    have hfar := (hgrid (2 ^ 52)).trans_lt (abs_sub_lt_of_lt_of_le hlt hx)
    exact ⟨hfar.le, fun htie => absurd htie hfar.ne⟩

/-! ### The overflow threshold -/

/-- Half the step below infinity, in units: the last step of the finite scale is 2^971 = 2 * 2^970. -/
def halfLastStep : Nat :=
  2 ^ 970 * 2 ^ 1074

/-- The magnitude in units from which rounding gives an infinity: 2^1024 - 2^970. -/
def overflowUnits : ℚ :=
  (2 ^ 1024 - 2 ^ 970) * unitsPerOne

theorem halfLastStep_pos : (0 : ℚ) < halfLastStep := by
  exact_mod_cast (by positivity : 0 < 2 ^ 970 * 2 ^ 1074)

theorem overflowUnits_eq : overflowUnits = (2 ^ 54 - 1) * halfLastStep := by
  rw [overflowUnits, halfLastStep, unitsPerOne, show 1024 = 54 + 970 from rfl, pow_add, Nat.cast_mul, Nat.cast_pow,
    Nat.cast_pow, Nat.cast_ofNat]
  generalize (2 : ℚ) ^ 970 = a
  generalize (2 : ℚ) ^ 1074 = b
  ring

theorem magnitude_infPattern : (magnitude infPattern : ℚ) = overflowUnits + halfLastStep := by
  have h : magnitude infPattern = 2 ^ 54 * halfLastStep := by
    rw [show infPattern = 2046 * 2 ^ 52 + 2 ^ 52 from rfl, magnitude_significand (by decide) (.inr le_rfl),
      halfLastStep, ← pow_add, ← pow_add, ← pow_add]
  rw [h, overflowUnits_eq]
  push_cast
  ring

theorem magnitude_lastFinite : (magnitude (infPattern - 1) : ℚ) = overflowUnits - halfLastStep := by
  have h : magnitude (infPattern - 1) = (2 ^ 54 - 2) * halfLastStep := by
    rw [show infPattern - 1 = 2045 * 2 ^ 52 + (2 ^ 53 - 1) from rfl,
      magnitude_significand (by decide) (.inr (by decide)), halfLastStep, ← pow_add,
      show 2045 = 970 + 1074 + 1 from rfl, pow_succ 2 (970 + 1074)]
    generalize 2 ^ (970 + 1074) = c
    omega
  rw [h, overflowUnits_eq]
  push_cast
  ring

/-- At the threshold and above, infinity is at least as near as the last finite pattern, which is odd. -/
theorem NearestEven.infPattern_le {t : ℚ} {P : Nat} (h : NearestEven t P) (ht : overflowUnits ≤ t) :
    infPattern ≤ P := by
  by_contra! hP
  have hw := halfLastStep_pos
  have hinf := magnitude_infPattern
  have hlast := magnitude_lastFinite
  have hle : (magnitude P : ℚ) ≤ magnitude (infPattern - 1) := by
    exact_mod_cast magnitude_strictMono.monotone (Nat.le_sub_one_of_lt hP)
  obtain ⟨hnear, htie⟩ := h infPattern
  have hdist : |(magnitude P : ℚ) - t| = t - magnitude P := by
    rw [abs_sub_comm, abs_of_nonneg (by linarith)]
  have hinfNear : |(magnitude infPattern : ℚ) - t| ≤ t - magnitude (infPattern - 1) :=
    abs_le.2 ⟨by linarith, by linarith⟩
  have hPlast : P = infPattern - 1 := magnitude_strictMono.injective <| by
    exact_mod_cast (by linarith : (magnitude P : ℚ) = magnitude (infPattern - 1))
  have heven := htie (by subst hPlast; linarith) hP.ne'
  rw [hPlast] at heven
  exact absurd heven (by decide)

/-- Below the threshold the last finite pattern is nearer than infinity. -/
theorem NearestEven.lt_infPattern {t : ℚ} {P : Nat} (h : NearestEven t P) (ht : t < overflowUnits) :
    P < infPattern := by
  by_contra! hP
  have hw := halfLastStep_pos
  have hinf := magnitude_infPattern
  have hlast := magnitude_lastFinite
  have hle : (magnitude infPattern : ℚ) ≤ magnitude P := by exact_mod_cast magnitude_strictMono.monotone hP
  have hnear := (h (infPattern - 1)).1
  have hlastNear : |(magnitude (infPattern - 1) : ℚ) - t| < magnitude infPattern - t :=
    abs_lt.2 ⟨by linarith, by linarith⟩
  have hdist := le_abs_self ((magnitude P : ℚ) - t)
  linarith

/-- Rounding stays below the pattern of infinity exactly below the overflow threshold. -/
theorem NearestEven.lt_infPattern_iff {t : ℚ} {P : Nat} (h : NearestEven t P) :
    P < infPattern ↔ t < overflowUnits :=
  ⟨fun hP => not_le.1 fun ht => hP.not_ge (h.infPattern_le ht), h.lt_infPattern⟩

/-- A magnitude is nearest to itself. -/
theorem nearestEven_magnitude (P : Nat) : NearestEven (magnitude P) P := by
  intro p
  rw [sub_self, abs_zero]
  refine ⟨abs_nonneg _, fun htie hne => absurd ?_ hne⟩
  have hsame := sub_eq_zero.1 (abs_eq_zero.1 htie.symm)
  exact magnitude_strictMono.injective (by exact_mod_cast hsame)

/-! ### Rounding a signed rational to a binary64 -/

/-- The factor of a sign bit. -/
def signFactor (neg : Bool) : ℚ :=
  if neg then -1 else 1

theorem signFactor_xor (a b : Bool) : signFactor (a ^^ b) = signFactor a * signFactor b := by
  cases a <;> cases b <;> simp [signFactor]

@[simp] theorem abs_signFactor (a : Bool) : |signFactor a| = 1 := by
  cases a <;> simp [signFactor]

theorem abs_signFactor_mul (a : Bool) (x : ℚ) : |signFactor a * x| = |x| := by
  rw [abs_mul, abs_signFactor, one_mul]

theorem signFactor_div (a b : Bool) : signFactor a / signFactor b = signFactor a * signFactor b := by
  cases b <;> simp [signFactor, div_neg]

theorem unitsPerOne_pos : 0 < unitsPerOne := by
  rw [unitsPerOne]
  positivity

theorem cast_unitsPerOne_pos : (0 : ℚ) < unitsPerOne :=
  Nat.cast_pos.2 unitsPerOne_pos

theorem real_eq (x : F64) : real x = signFactor (signBit x) * ((magnitude (magPattern x) : ℚ) / unitsPerOne) := by
  rw [real, units_eq, signFactor]

theorem abs_real (x : F64) : |real x| = (magnitude (magPattern x) : ℚ) / unitsPerOne := by
  rw [real_eq, abs_signFactor_mul, abs_of_nonneg (div_nonneg (Nat.cast_nonneg _) cast_unitsPerOne_pos.le)]

/-- Every finite binary64 is below the overflow threshold. -/
theorem abs_real_lt_of_isFinite {x : F64} (h : isFinite x = true) : |real x| < 2 ^ 1024 - 2 ^ 970 := by
  rw [abs_real, div_lt_iff₀ cast_unitsPerOne_pos]
  exact (nearestEven_magnitude _).lt_infPattern_iff.1 ((isFinite_iff x).1 h)

/-- A pattern nearest to t denotes 0 if it is as near to t as its opposite is. -/
theorem NearestEven.magnitude_eq_zero {t : ℚ} (ht : 0 ≤ t) {P : Nat} (h : NearestEven t P)
    (hopp : |(magnitude P : ℚ) - t| = |(magnitude P : ℚ) + t|) : magnitude P = 0 := by
  have hzero : |(magnitude P : ℚ) - t| ≤ t := by
    simpa only [magnitude_zero, Nat.cast_zero, zero_sub, abs_neg, abs_of_nonneg ht] using (h 0).1
  rw [hopp, abs_of_nonneg (add_nonneg (Nat.cast_nonneg _) ht)] at hzero
  exact Nat.le_zero.1 (by exact_mod_cast (by linarith : (magnitude P : ℚ) ≤ 0))

/-- A binary64 whose pattern is nearest to t units rounds the real of its own sign and magnitude t units: a value of
either sign is at least as far away as its magnitude is from t. -/
theorem roundsTo_of_nearestEven {t : ℚ} (ht : 0 ≤ t) {q : F64} (hfin : isFinite q = true)
    (h : NearestEven t (magPattern q)) : RoundsTo (signFactor (signBit q) * (t / unitsPerOne)) q := by
  have hU := cast_unitsPerOne_pos
  have hdist (m : Nat) : |(m : ℚ) / unitsPerOne - t / unitsPerOne| = |(m : ℚ) - t| / unitsPerOne := by
    rw [← sub_div, abs_div, abs_of_pos hU]
  have hx : |signFactor (signBit q) * (t / unitsPerOne)| = t / unitsPerOne := by
    rw [abs_signFactor_mul, abs_of_nonneg (div_nonneg ht hU.le)]
  have hq : |real q - signFactor (signBit q) * (t / unitsPerOne)| =
      |(magnitude (magPattern q) : ℚ) - t| / unitsPerOne := by
    rw [real_eq, ← mul_sub, abs_signFactor_mul, hdist]
  refine ⟨hfin, fun y _ => ?_⟩
  obtain ⟨hnear, htie⟩ := h (magPattern y)
  have hy : |(magnitude (magPattern y) : ℚ) - t| / unitsPerOne ≤
      |real y - signFactor (signBit q) * (t / unitsPerOne)| := by
    simpa only [abs_real, hx, hdist] using abs_abs_sub_abs_le (real y) (signFactor (signBit q) * (t / unitsPerOne))
  have hqy := div_le_div_of_nonneg_right hnear hU.le
  rw [hq]
  refine ⟨hqy.trans hy, fun heq hne => ?_⟩
  by_cases hp : magPattern y = magPattern q
  · have hopp : real y = -real q :=
      (abs_eq_abs.1 (by rw [abs_real, abs_real, hp])).resolve_left hne
    rw [hopp, real_eq, ← mul_neg, ← mul_sub, abs_signFactor_mul, ← neg_add', abs_neg, ← add_div, abs_div,
      abs_of_pos hU, div_left_inj' hU.ne'] at heq
    have hzero : real q = 0 := by rw [real_eq, h.magnitude_eq_zero ht heq, Nat.cast_zero, zero_div, mul_zero]
    rw [hopp, hzero, neg_zero] at hne
    exact absurd rfl hne
  · have htie' := (div_left_inj' hU.ne').1 (hqy.antisymm (heq ▸ hy))
    exact fraction_even (htie htie' hp)

/-- Rounding ±n/d units: the sign, the nearest binary64 below the overflow threshold, an infinity from there on. -/
theorem packF64_roundPattern_spec (neg : Bool) (n : Nat) {d : Nat} (hd : 0 < d) {x : ℚ}
    (hx : x = signFactor neg * ((n : ℚ) / d / unitsPerOne)) :
    signBit (packF64 neg (roundPattern n d)) = neg ∧
    (|x| < 2 ^ 1024 - 2 ^ 970 → RoundsTo x (packF64 neg (roundPattern n d))) ∧
    (2 ^ 1024 - 2 ^ 970 ≤ |x| →
      expField (packF64 neg (roundPattern n d)) = 2047 ∧ fraction (packF64 neg (roundPattern n d)) = 0) := by
  have hnear := roundPattern_nearest n hd
  have ht : (0 : ℚ) ≤ (n : ℚ) / d := by positivity
  have hxabs : |x| = (n : ℚ) / d / unitsPerOne := by
    rw [hx, abs_signFactor_mul, abs_of_nonneg (div_nonneg ht cast_unitsPerOne_pos.le)]
  have hbound : |x| < 2 ^ 1024 - 2 ^ 970 ↔ roundPattern n d < infPattern := by
    rw [hnear.lt_infPattern_iff, hxabs, div_lt_iff₀ cast_unitsPerOne_pos, overflowUnits]
  refine ⟨signBit_packF64 _ _, fun hlt => ?_, fun hge => ?_⟩
  · have hP : magPattern (packF64 neg (roundPattern n d)) = roundPattern n d := by
      rw [magPattern_packF64, Nat.min_eq_left (hbound.1 hlt).le]
    have hround := roundsTo_of_nearestEven ht ((isFinite_iff _).2 (hP ▸ hbound.1 hlt)) (hP.symm ▸ hnear)
    rwa [signBit_packF64, ← hx] at hround
  · have hP := not_lt.1 (mt hbound.2 hge.not_gt)
    exact fields_of_magPattern_eq_infPattern (by rw [magPattern_packF64, Nat.min_eq_right hP])

/-! ### Products, quotients and integers -/

theorem units_pos_of_real_ne_zero {x : F64} (h : real x ≠ 0) : 0 < units x := by
  rw [Nat.pos_iff_ne_zero]
  rintro h0
  exact h (by rw [real, h0, Nat.cast_zero, zero_div, mul_zero])

theorem real_mul_real (a b : F64) :
    real a * real b =
      signFactor (signBit a ^^ signBit b) * (((units a * units b : ℕ) : ℚ) / unitsPerOne / unitsPerOne) := by
  rw [signFactor_xor, real_eq, real_eq, units_eq, units_eq]
  push_cast
  ring

theorem real_div_real (a b : F64) (hb : 0 < units b) :
    real a / real b =
      signFactor (signBit a ^^ signBit b) * (((units a * unitsPerOne : ℕ) : ℚ) / units b / unitsPerOne) := by
  have hU := cast_unitsPerOne_pos.ne'
  have hb' : (units b : ℚ) ≠ 0 := by exact_mod_cast hb.ne'
  rw [signFactor_xor, real_eq, real_eq, ← units_eq, ← units_eq, mul_div_mul_comm, signFactor_div]
  push_cast
  field_simp

/-- Settles O8: the exact product is `units a * units b / unitsPerOne` units, rounded once. -/
theorem fmulRoundsToNearestEven : Obligations.FmulRoundsToNearestEven := fun a b _ _ =>
  packF64_roundPattern_spec _ _ unitsPerOne_pos (real_mul_real a b)

/-- Settles O9: the exact quotient is `units a * unitsPerOne / units b` units, rounded once. -/
theorem fdivRoundsToNearestEven : Obligations.FdivRoundsToNearestEven := fun a b _ _ hb =>
  have hpos := units_pos_of_real_ne_zero hb
  packF64_roundPattern_spec _ _ hpos (real_div_real a b hpos)

/-- A real that a finite binary64 denotes rounds to itself. -/
theorem RoundsTo.real_eq_of_representable {x : ℚ} {q y : F64} (h : RoundsTo x q) (hfin : isFinite y = true)
    (hy : real y = x) : real q = x := by
  obtain ⟨hnear, -⟩ := h.2 y hfin
  rwa [hy, sub_self, abs_zero, abs_nonpos_iff, sub_eq_zero] at hnear

/-- Integers up to 2^53 have a significand of at most 53 bits, a power of two apart. -/
theorem exists_significand_of_le {a : Nat} (h0 : a ≠ 0) (h : a ≤ 2 ^ 53) :
    ∃ j ≤ 52, 2 ^ 52 ≤ a * 2 ^ j ∧ a * 2 ^ j ≤ 2 ^ 53 := by
  have hlow : 2 ^ Nat.log2 a ≤ a := Nat.log2_self_le h0
  have hhigh : a < 2 ^ (Nat.log2 a + 1) := Nat.lt_log2_self
  rcases Nat.lt_or_ge a (2 ^ 53) with h' | h'
  · have hlog : Nat.log2 a ≤ 52 := Nat.lt_succ_iff.1 ((Nat.log2_lt h0).2 h')
    refine ⟨52 - Nat.log2 a, Nat.sub_le _ _, ?_, ?_⟩
    · calc 2 ^ 52 = 2 ^ Nat.log2 a * 2 ^ (52 - Nat.log2 a) := by rw [← pow_add, Nat.add_sub_of_le hlog]
        _ ≤ _ := Nat.mul_le_mul_right _ hlow
    · calc a * 2 ^ (52 - Nat.log2 a) ≤ 2 ^ (Nat.log2 a + 1) * 2 ^ (52 - Nat.log2 a) :=
          Nat.mul_le_mul_right _ hhigh.le
        _ = 2 ^ 53 := by rw [← pow_add]; congr 1; omega
  · exact ⟨0, by omega, by omega, by omega⟩

/-- Every integer of magnitude at most 2^53 is a finite binary64 value of either sign. -/
theorem exists_real_eq_nat (neg : Bool) {a : Nat} (h : a ≤ 2 ^ 53) :
    ∃ y : F64, isFinite y = true ∧ real y = signFactor neg * a := by
  have hpack {p : Nat} (hp : p < infPattern) (hm : magnitude p = a * unitsPerOne) :
      isFinite (packF64 neg p) = true ∧ real (packF64 neg p) = signFactor neg * a := by
    have hP : magPattern (packF64 neg p) = p := by rw [magPattern_packF64, Nat.min_eq_left hp.le]
    refine ⟨(isFinite_iff _).2 (hP.symm ▸ hp), ?_⟩
    rw [real_eq, hP, hm, signBit_packF64, Nat.cast_mul, mul_div_cancel_right₀ _ cast_unitsPerOne_pos.ne']
  rcases eq_or_ne a 0 with rfl | h0
  · exact ⟨_, hpack (p := 0) (by decide) (Nat.zero_mul _).symm⟩
  · obtain ⟨j, hj, hlow, hhigh⟩ := exists_significand_of_le h0 h
    refine ⟨_, hpack (p := (1074 - j) * 2 ^ 52 + a * 2 ^ j) (by unfold infPattern; omega) ?_⟩
    rw [magnitude_significand hhigh (.inr hlow), Nat.mul_assoc, ← pow_add, Nat.add_sub_of_le (by omega), unitsPerOne]

theorem intCast_eq_signFactor_mul_natAbs (n : Int) : (n : ℚ) = signFactor (decide (n < 0)) * n.natAbs := by
  rcases lt_or_ge n 0 with h | h
  · rw [decide_eq_true h, signFactor, if_pos rfl, Nat.cast_natAbs, abs_of_neg h]; push_cast; ring
  · rw [decide_eq_false h.not_gt, signFactor, if_neg Bool.false_ne_true, Nat.cast_natAbs, abs_of_nonneg h, one_mul]

/-- Settles O10: the integer is itself a finite binary64 value, and rounding is to the nearest one. -/
theorem toF64Exact : Obligations.ToF64Exact := by
  intro n hlow hhigh
  have ha : n.natAbs ≤ 2 ^ 53 := by omega
  have hn := intCast_eq_signFactor_mul_natAbs n
  obtain ⟨y, hfin, hy⟩ := exists_real_eq_nat (decide (n < 0)) ha
  have hx : (n : ℚ) =
      signFactor (decide (n < 0)) * (((n.natAbs * unitsPerOne : ℕ) : ℚ) / (1 : ℕ) / unitsPerOne) := by
    rw [Nat.cast_one, div_one, Nat.cast_mul, mul_div_cancel_right₀ _ cast_unitsPerOne_pos.ne', ← hn]
  have hbound : |(n : ℚ)| < 2 ^ 1024 - 2 ^ 970 := hn ▸ hy ▸ abs_real_lt_of_isFinite hfin
  obtain ⟨-, hround, -⟩ := packF64_roundPattern_spec _ _ Nat.one_pos hx
  exact ⟨(hround hbound).1, (hround hbound).real_eq_of_representable hfin (hy.trans hn.symm)⟩

end Sys2Proof.Machine
end

section
/-! One step of the host (10_state.md R22, R23, R33): every operation completes with a result and leaves the rest of the
state (`exec_completes`), so an issued request writes one variable and moves the index, and so does every other line. -/
namespace Sys2Proof.Machine

/-! ### An operation completes, and its request is retired -/

/-- Every operation answers a next state, which differs from the one before in the result alone (R14, R26). -/
theorem exec_completes (i : Instr) (s : State) : ∃ res, exec i s = .next (s.complete res) := by
  cases i with
  | crc8 data => exact ⟨_, rfl⟩
  | scaleEnc fval => exact ⟨_, rfl⟩
  | scaleDec fx => exact ⟨_, rfl⟩
  | encode cmd fval flag => exact ⟨_, rfl⟩
  | decode buf => exact ⟨_, rfl⟩

/-- A completed request gives its result to the variable, clears the interface and moves the index. -/
theorem retireOutcome_complete (d : Nat) (p : Setup) (m : Live) (res : Result) :
    retireOutcome d (.next (State.complete res ⟨p, m⟩)) =
      .next { m with vars := tblSet m.vars d res, out := none, pc := m.pc + 1 } :=
  congrArg Host.Outcome.next (Live.retire_complete p m res d)

theorem runRequest_of_decode {r : Request} {i : Instr} (h : decodeRequest r = .ok i) (p : Setup) (d : Nat) (m : Live) :
    runRequest p d r m = retireOutcome d (exec i ⟨p, m⟩) := by
  rw [runRequest, h]

theorem runRequest_of_reserved {r : Request} (h : decodeRequest r = .error .reservedOpsel) (p : Setup) (d : Nat)
    (m : Live) : runRequest p d r m = retireOutcome d (.next (State.complete (.error .illegalOp) ⟨p, m⟩)) := by
  rw [runRequest, h, raise]

theorem runRequest_of_not_admitted {r : Request} {why : DecodeError} (h : decodeRequest r = .error why)
    (hwhy : why ≠ .reservedOpsel) (p : Setup) (d : Nat) (m : Live) :
    runRequest p d r m = .refused (.operandNotAdmitted why) := by
  rw [runRequest, h]
  cases why with
  | reservedOpsel => exact absurd rfl hwhy
  | _ => rfl

/-- A request that completes writes its variable, leaves the interface empty and moves the index, nothing else. -/
theorem runRequest_next {p : Setup} {d : Nat} {r : Request} {m n : Live} (h : runRequest p d r m = .next n) :
    ∃ res, n = { m with vars := tblSet m.vars d res, out := none, pc := m.pc + 1 } := by
  cases hd : decodeRequest r with
  | ok i =>
    obtain ⟨res, hexec⟩ := exec_completes i ⟨p, m⟩
    rw [runRequest_of_decode hd, hexec, retireOutcome_complete] at h
    cases h; exact ⟨res, rfl⟩
  | error why =>
    by_cases hwhy : why = .reservedOpsel
    · subst hwhy
      rw [runRequest_of_reserved hd, retireOutcome_complete] at h
      cases h; exact ⟨_, rfl⟩
    · rw [runRequest_of_not_admitted hd hwhy] at h
      cases h

/-- Settles O35: `exec` writes the result alone, and retiring the request moves it to its variable. -/
theorem stepRunsDecodedRequest : Obligations.StepRunsDecodedRequest := by
  intro s t dest r i res hline hdecode hexec hout
  obtain ⟨res', hcomplete⟩ := exec_completes i s
  cases hcomplete.symm.trans hexec
  cases hout
  calc step s
    _ = underSetup s.toSetup (runRequest s.toSetup dest r s.toLive) := step_of_line _ hline
    _ = underSetup s.toSetup (retireOutcome dest (.next (s.complete res))) := by
      rw [runRequest_of_decode hdecode, hcomplete]
    _ = _ := by rw [retireOutcome_complete]; rfl

/-! ### Every line moves the index by one -/

theorem releaseTransport_pc {how : Session} {ch : Nat} {m n : Live} (h : releaseTransport how ch m = .next n) :
    n.pc = m.pc + 1 := by
  obtain ⟨-, heq⟩ | ⟨c, -, heq⟩ := releaseTransport_next how ch m <;> cases heq.symm.trans h <;> rfl

/-- A line that runs moves the index by one, whatever line it is (R22, log entry 13). -/
theorem runAction_pc {p : Setup} {a : HostAction} {m n : Live} (h : runAction p a m = .next n) : n.pc = m.pc + 1 := by
  cases a with
  | request d r => obtain ⟨_, rfl⟩ := runRequest_next h; rfl
  | decodeVar d src =>
    obtain ⟨_, -, hreq⟩ := runDecodeVar_next h
    obtain ⟨_, rfl⟩ := runRequest_next hreq
    rfl
  | openChannel ch => obtain ⟨-, rfl⟩ := openTransport_next h; rfl
  | wait ch time => obtain ⟨_, -, -, rfl⟩ := onOpenChannel_next h; rfl
  | send ch src => obtain ⟨-, rfl⟩ | ⟨_, _, -, -, -, rfl⟩ := sendFrame_next h <;> rfl
  | receive ch b => obtain ⟨_, -, -, rfl⟩ := onOpenChannel_next h; rfl
  | transportError ch => exact releaseTransport_pc h
  | closeChannel ch => exact releaseTransport_pc h

/-- A step that runs a line is that line's action on the state proper. -/
theorem runAction_of_step {s t : State} {a : HostAction} (hline : s.program[s.pc]? = some a) (h : step s = .next t) :
    runAction s.toSetup a s.toLive = .next t.toLive := by
  obtain ⟨hrun, -⟩ := step_next h
  rwa [runStep, fetch, hline] at hrun

/-- Settles O47: no step writes the parameters; past the end the host exits, and every line moves the index by one. -/
theorem stepKeepsConfigurationAndAdvances : Obligations.StepKeepsConfigurationAndAdvances := by
  intro s t h
  obtain ⟨-, hsetup⟩ := step_next h
  refine ⟨congrArg Setup.scaleProduct hsetup, congrArg Setup.transports hsetup, congrArg Setup.program hsetup, ?_, ?_⟩
  · intro hend
    cases (step_of_end hend).symm.trans h
    rfl
  · intro a hline
    exact runAction_pc (runAction_of_step hline h)

end Sys2Proof.Machine
end

section
/-! The result of an operation as a function of SCALE_PRODUCT and the operands alone (10_state.md R48): `exec` reads
nothing else of the state (`exec_eq_complete`). -/
namespace Sys2Proof.Machine

/-- What an operation answers, written without a state: its unit's rule, applied to the operands in one mode. -/
def operationResult (mode : ScaleProduct) : Instr → Result
  | .crc8 data => .ok (.crc (crc8 data))
  | .scaleEnc fval => toResult ((scaleEncode mode fval).map .fxOut)
  | .scaleDec fx => .ok (.fvalOut (scaleDecode fx))
  | .encode cmd fval flag => toResult ((encodeFrame mode cmd fval flag).map .frame)
  | .decode buf => toResult ((decodeFrame buf).map .pkt)

/-- `exec` in full: the state unchanged but for the operation's result, in which the state enters by its
SCALE_PRODUCT alone. -/
theorem exec_eq_complete (i : Instr) (s : State) :
    exec i s = .next (s.complete (operationResult s.scaleProduct i)) := by
  cases i with
  | crc8 data => rfl
  | scaleEnc fval => rfl
  | scaleDec fx => rfl
  | encode cmd fval flag => rfl
  | decode buf => rfl

/-- Settles O39: the common result is `operationResult` at the SCALE_PRODUCT the two states share. -/
theorem resultDependsOnOperandsOnly : Obligations.ResultDependsOnOperandsOnly := by
  intro i s s' hmode
  refine ⟨operationResult s.scaleProduct i, exec_eq_complete i s, ?_⟩
  rw [hmode]
  exact exec_eq_complete i s'

end Sys2Proof.Machine
end

section
/-! Requests and operations (30_encoding.md R70 to R73). Each operand reader accepts exactly the admitted values, keeps
the value it read and reads every operand's value back (`FaithfulReader`); the decoder is these readers under its select,
so both directions of the encoding follow reader by reader. -/
namespace Sys2Proof

/-! ### The operand readers -/

/-- The outcome of an input that is not representable: an error other than the one a reserved select has (R209). -/
def RejectedByName {γ : Type} (x : Except DecodeError γ) : Prop :=
  ∃ e, x = .error e ∧ e ≠ .reservedOpsel

/-- A reader that takes an admitted raw value to an operand of that value, rejects every other one, and reads each
operand back from its value. -/
structure FaithfulReader {α β : Type} (read : α → Except DecodeError β) (value : β → α) (admitted : α → Bool) :
    Prop where
  accepts : ∀ {a : α}, admitted a = true → ∃ b, read a = .ok b ∧ value b = a
  rejects : ∀ {a : α}, admitted a = false → RejectedByName (read a)
  read_value : ∀ b : β, read (value b) = .ok b

theorem RejectedByName.map {γ δ : Type} {x : Except DecodeError γ} (h : RejectedByName x) (f : γ → δ) :
    RejectedByName (x.map f) := by
  obtain ⟨e, rfl, he⟩ := h
  exact ⟨e, rfl, he⟩

/-- Reading an operand and going on is rejected if the operand is, or what follows every admitted one. -/
theorem FaithfulReader.bind_rejected {α β γ : Type} {read : α → Except DecodeError β} {value : β → α}
    {admitted : α → Bool} (hread : FaithfulReader read value admitted) {a : α} {next : β → Except DecodeError γ}
    (hnext : admitted a = true → ∀ b, RejectedByName (next b)) : RejectedByName ((read a).bind next) := by
  cases ha : admitted a with
  | true =>
    obtain ⟨b, hb, -⟩ := hread.accepts ha
    exact hb ▸ hnext ha b
  | false =>
    obtain ⟨e, hb, he⟩ := hread.rejects ha
    exact hb ▸ ⟨e, rfl, he⟩

/-- A reader that checks the admitted form and then converts is faithful where the conversion inverts `value`. -/
theorem FaithfulReader.of_check {α β : Type} {read : α → Except DecodeError β} {value : β → α} {admitted : α → Bool}
    (convert : α → β) (e : DecodeError) (he : e ≠ .reservedOpsel)
    (hread : ∀ a, read a = if admitted a then .ok (convert a) else .error e)
    (hvalue : ∀ a, admitted a = true → value (convert a) = a) (hadmitted : ∀ b, admitted (value b) = true)
    (hconvert : ∀ b, convert (value b) = b) : FaithfulReader read value admitted where
  accepts h := ⟨convert _, by rw [hread, if_pos h], hvalue _ h⟩
  rejects h := ⟨e, by rw [hread, h, if_neg Bool.false_ne_true], he⟩
  read_value b := by rw [hread, if_pos (hadmitted b), hconvert]

theorem toNat_ofNat_of_lt {w n : Nat} (h : n < 2 ^ w) : (BitVec.ofNat w n).toNat = n := by
  rw [BitVec.toNat_ofNat, Nat.mod_eq_of_lt h]

theorem ofNat_toNat_self {w : Nat} (x : BitVec w) : BitVec.ofNat w x.toNat = x := by
  rw [BitVec.ofNat_toNat, BitVec.setWidth_eq]

theorem readBytes_faithful : FaithfulReader readBytes bytesToNats bytesAdmitted := by
  refine .of_check (·.map (BitVec.ofNat 8)) .byteNotU8 (by decide) (fun _ => rfl) (fun bs h => ?_)
    Laws.EncodesAdmitted.bytes_admitted (fun bs => ?_)
  · simp only [bytesAdmitted, List.all_eq_true, decide_eq_true_eq] at h
    rw [bytesToNats, List.map_map]
    exact (List.map_congr_left fun n hn => toNat_ofNat_of_lt (h n hn)).trans (List.map_id bs)
  · rw [bytesToNats, List.map_map]
    exact List.map_id'' ofNat_toNat_self bs

/-- A reader of w-bit patterns. -/
theorem FaithfulReader.of_pattern {w : Nat} {read : Nat → Except DecodeError (BitVec w)} (e : DecodeError)
    (he : e ≠ .reservedOpsel) (hread : ∀ n, read n = if n < 2 ^ w then .ok (BitVec.ofNat w n) else .error e) :
    FaithfulReader read BitVec.toNat (fun n => decide (n < 2 ^ w)) :=
  .of_check (BitVec.ofNat w) e he (by simpa only [decide_eq_true_eq] using hread)
    (fun _ h => toNat_ofNat_of_lt (of_decide_eq_true h)) (fun x => decide_eq_true x.isLt) ofNat_toNat_self

theorem readFval_faithful : FaithfulReader readFval BitVec.toNat (fun n => decide (n < 2 ^ 64)) :=
  .of_pattern .fvalNot64Bit (by decide) (fun _ => rfl)

theorem readCmd_faithful : FaithfulReader readCmd BitVec.toNat (fun n => decide (n < 2 ^ 8)) :=
  .of_pattern .cmdNotU8 (by decide) (fun _ => rfl)

theorem readFx_faithful : FaithfulReader readFx BitVec.toInt s32Admitted := by
  refine .of_check (BitVec.ofInt 32) .fxNotS32 (by decide) (fun _ => rfl) (fun n h => ?_)
    (fun fx => (Laws.EncodesAdmitted.scaleDec fx).1) (fun fx => BitVec.ofInt_toInt)
  simp only [s32Admitted, Bool.and_eq_true, decide_eq_true_eq] at h
  exact BitVec.toInt_ofInt_eq_self (by decide) (by omega) (by omega)

theorem readFlag_faithful : FaithfulReader readFlag Bool.toNat (fun n => decide (n < 2)) := by
  refine .of_check (· == 1) .flagNotBit (by decide) (fun n => ?_) (fun n h => ?_) (by decide) (by decide)
  · match n with
    | 0 => rfl
    | 1 => rfl
    | _ + 2 => rfl
  · match n, h with
    | 0, _ => rfl
    | 1, _ => rfl

/-! ### The decoder, select by select -/

section
variable {r : Request}

theorem decodeRequest_of_op_crc8 (h : r.op = 0) : decodeRequest r = (readBytes r.data).map .crc8 := by
  rw [decodeRequest, h]; rfl

theorem decodeRequest_of_op_scaleEnc (h : r.op = 1) : decodeRequest r = (readFval r.fval).map .scaleEnc := by
  rw [decodeRequest, h]; rfl

theorem decodeRequest_of_op_scaleDec (h : r.op = 2) : decodeRequest r = (readFx r.fx).map .scaleDec := by
  rw [decodeRequest, h]; rfl

theorem decodeRequest_of_op_encode (h : r.op = 3) :
    decodeRequest r =
      (readCmd r.cmd).bind fun cmd => (readFval r.fval).bind fun fval => (readFlag r.flag).map (.encode cmd fval) := by
  rw [decodeRequest, h]; rfl

theorem decodeRequest_of_op_decode (h : r.op = 4) : decodeRequest r = (readBytes r.buf).map .decode := by
  rw [decodeRequest, h]; rfl

/-- A reserved select is decided before any operand is read (R73, R206). -/
theorem decodeRequest_of_op_reserved (h : r.op = 5 ∨ r.op = 6 ∨ r.op = 7) :
    decodeRequest r = .error .reservedOpsel := by
  obtain h | h | h := h <;> rw [decodeRequest, h] <;> rfl

end

theorem encodeRequest_encode (cmd : Byte) (fval : F64) (flag : Bool) :
    encodeRequest (.encode cmd fval flag) =
      { op := 3, cmd := cmd.toNat, fval := fval.toNat, flag := flag.toNat } := by
  cases flag <;> rfl

/-- Settles O32: the decoder selects the operation's own readers, each of which reads its operand's value back. -/
theorem requestEncodingRoundTrip : Obligations.RequestEncodingRoundTrip := by
  intro i
  cases i with
  | crc8 data => exact (decodeRequest_of_op_crc8 rfl).trans (congrArg _ (readBytes_faithful.read_value data))
  | scaleEnc fval => exact (decodeRequest_of_op_scaleEnc rfl).trans (congrArg _ (readFval_faithful.read_value fval))
  | scaleDec fx => exact (decodeRequest_of_op_scaleDec rfl).trans (congrArg _ (readFx_faithful.read_value fx))
  | encode cmd fval flag =>
    rw [encodeRequest_encode, decodeRequest_of_op_encode rfl, readCmd_faithful.read_value,
      readFval_faithful.read_value, readFlag_faithful.read_value]
    rfl
  | decode buf => exact (decodeRequest_of_op_decode rfl).trans (congrArg _ (readBytes_faithful.read_value buf))

/-- What it means that an operation has a request's select and operand values, the operands it reads being the
request's own (R70, R71). -/
def Instr.HasOperandsOf (r : Request) : Instr → Prop
  | .crc8 data => r.op = 0 ∧ bytesToNats data = r.data
  | .scaleEnc fval => r.op = 1 ∧ fval.toNat = r.fval
  | .scaleDec fx => r.op = 2 ∧ fx.toInt = r.fx
  | .encode cmd fval flag => r.op = 3 ∧ cmd.toNat = r.cmd ∧ fval.toNat = r.fval ∧ flag.toNat = r.flag
  | .decode buf => r.op = 4 ∧ bytesToNats buf = r.buf

theorem decodeRequest_of_wellFormed {r : Request} (hwf : r.wellFormed = true) (hop : r.op < 5) :
    ∃ i, decodeRequest r = .ok i ∧ i.HasOperandsOf r := by
  obtain ⟨op, data, fval, fx, cmd, flag, buf⟩ := r
  match op, hop with
  | 0, _ =>
    obtain ⟨x, hread, hval⟩ := readBytes_faithful.accepts hwf
    exact ⟨.crc8 x, (decodeRequest_of_op_crc8 rfl).trans (congrArg _ hread), rfl, hval⟩
  | 1, _ =>
    obtain ⟨x, hread, hval⟩ := readFval_faithful.accepts hwf
    exact ⟨.scaleEnc x, (decodeRequest_of_op_scaleEnc rfl).trans (congrArg _ hread), rfl, hval⟩
  | 2, _ =>
    obtain ⟨x, hread, hval⟩ := readFx_faithful.accepts hwf
    exact ⟨.scaleDec x, (decodeRequest_of_op_scaleDec rfl).trans (congrArg _ hread), rfl, hval⟩
  | 3, _ =>
    obtain ⟨⟨hcmd, hfval⟩, hflag⟩ := (Bool.and_eq_true_iff.1 hwf).imp_left Bool.and_eq_true_iff.1
    obtain ⟨c, hreadc, hvalc⟩ := readCmd_faithful.accepts hcmd
    obtain ⟨x, hreadx, hvalx⟩ := readFval_faithful.accepts hfval
    obtain ⟨g, hreadg, hvalg⟩ := readFlag_faithful.accepts hflag
    refine ⟨.encode c x g, ?_, rfl, hvalc, hvalx, hvalg⟩
    rw [decodeRequest_of_op_encode rfl, hreadc, hreadx, hreadg]
    rfl
  | 4, _ =>
    obtain ⟨x, hread, hval⟩ := readBytes_faithful.accepts hwf
    exact ⟨.decode x, (decodeRequest_of_op_decode rfl).trans (congrArg _ hread), rfl, hval⟩

theorem op_reserved_of_wellFormed {r : Request} (hwf : r.wellFormed = true) (hop : 5 ≤ r.op) :
    r.op = 5 ∨ r.op = 6 ∨ r.op = 7 := by
  obtain ⟨op, data, fval, fx, cmd, flag, buf⟩ := r
  match op, hop with
  | 5, _ => exact .inl rfl
  | 6, _ => exact .inr (.inl rfl)
  | 7, _ => exact .inr (.inr rfl)
  | _ + 8, _ => cases hwf

theorem decodeRequest_of_not_wellFormed {r : Request} (hwf : r.wellFormed = false) :
    RejectedByName (decodeRequest r) := by
  obtain ⟨op, data, fval, fx, cmd, flag, buf⟩ := r
  match op with
  | 0 => rw [decodeRequest_of_op_crc8 rfl]; exact (readBytes_faithful.rejects hwf).map _
  | 1 => rw [decodeRequest_of_op_scaleEnc rfl]; exact (readFval_faithful.rejects hwf).map _
  | 2 => rw [decodeRequest_of_op_scaleDec rfl]; exact (readFx_faithful.rejects hwf).map _
  | 3 =>
    rw [decodeRequest_of_op_encode rfl]
    refine readCmd_faithful.bind_rejected fun hcmd _ => readFval_faithful.bind_rejected fun hfval _ =>
      (readFlag_faithful.rejects ?_).map _
    simpa only [Request.wellFormed, hcmd, hfval, Bool.true_and] using hwf
  | 4 => rw [decodeRequest_of_op_decode rfl]; exact (readBytes_faithful.rejects hwf).map _
  | 5 | 6 | 7 => cases hwf
  | _ + 8 => exact ⟨.opselNotU3, rfl, by decide⟩

/-- Settles O33: an operation has the values its readers accepted, and the first reader that rejects names the error. -/
theorem requestDecodingFaithful : Obligations.RequestDecodingFaithful := fun _ =>
  ⟨decodeRequest_of_wellFormed,
   fun hwf hop => decodeRequest_of_op_reserved (op_reserved_of_wellFormed hwf hop),
   decodeRequest_of_not_wellFormed⟩

end Sys2Proof
end

section
/-! The fields of a frame (30_encoding.md R64, R65): `leBytes32` and `int32Le` byte by byte, the FLAGS byte, and DECODE of
a frame whose markers and CRC are right. -/
namespace Sys2Proof.Machine

/-- The pattern of four bytes is their sum in base 256, lowest byte first (R64). -/
theorem int32Le_toNat (b0 b1 b2 b3 : Byte) :
    (int32Le [b0, b1, b2, b3]).toNat = b0.toNat + 2 ^ 8 * b1.toNat + 2 ^ 16 * b2.toNat + 2 ^ 24 * b3.toNat := by
  have h0 := b0.isLt
  have h1 := b1.isLt
  have h2 := b2.isLt
  have h3 := b3.isLt
  exact toNat_ofNat_of_lt (by simp only [byteAt, List.getD_cons_zero, List.getD_cons_succ]; omega)

theorem extractLsb'_eq_ofNat (n : S32) (k : Nat) : n.extractLsb' k 8 = BitVec.ofNat 8 (n.toNat / 2 ^ k) := by
  rw [BitVec.extractLsb', Nat.shiftRight_eq_div_pow]

theorem leBytes32_eq (n : S32) :
    leBytes32 n = [BitVec.ofNat 8 n.toNat, BitVec.ofNat 8 (n.toNat / 2 ^ 8), BitVec.ofNat 8 (n.toNat / 2 ^ 16),
      BitVec.ofNat 8 (n.toNat / 2 ^ 24)] := by
  simp only [leBytes32, extractLsb'_eq_ofNat, pow_zero, Nat.div_one]

theorem int32Le_leBytes32 (n : S32) : int32Le (leBytes32 n) = n := by
  apply BitVec.eq_of_toNat_eq
  rw [leBytes32_eq, int32Le_toNat]
  simp only [BitVec.toNat_ofNat]
  omega

theorem leBytes32_int32Le (b0 b1 b2 b3 : Byte) : leBytes32 (int32Le [b0, b1, b2, b3]) = [b0, b1, b2, b3] := by
  rw [leBytes32_eq, int32Le_toNat]
  have h0 := b0.isLt
  have h1 := b1.isLt
  have h2 := b2.isLt
  have h3 := b3.isLt
  simp only [List.cons.injEq, and_true]
  refine ⟨?_, ?_, ?_, ?_⟩ <;> (apply BitVec.eq_of_toNat_eq; rw [BitVec.toNat_ofNat]; omega)

/-- Settles O21: the four bytes are the base-256 digits of the pattern, so each function undoes the other. -/
theorem littleEndianInverse : Obligations.LittleEndianInverse := by
  refine ⟨fun n => ⟨int32Le_leBytes32 n, leBytes32_eq n⟩, fun b hb => ?_⟩
  obtain ⟨b0, b1, b2, b3, rfl⟩ := List.length_eq_four.1 hb
  exact leBytes32_int32Le b0 b1 b2 b3

/-- The flag is bit 0 of FLAGS, whatever the reserved bits are (R65, R74). -/
theorem flagOf_eq (flags : Byte) : flagOf flags = decide (flags.toNat % 2 = 1) := by
  have hbit : (flags &&& Config.flagMask).toNat = flags.toNat % 2 :=
    (BitVec.toNat_and _ _).trans (Nat.and_one_is_mod _)
  rw [flagOf, Bool.eq_iff_iff, bne_iff_ne, BitVec.toNat_ne, hbit, decide_eq_true_eq]
  exact Nat.mod_two_ne_zero

/-- DECODE of 9 bytes with the right markers and CRC is the packet of their payload (R160). -/
theorem decodeFrame_eq_framePacket {buf : List Byte} (hlen : buf.length = 9) (hsof : byteAt buf 0 = Config.sof)
    (heof : byteAt buf 8 = Config.eof) (hcrc : crc8 (slice buf 1 6) = byteAt buf 7) :
    decodeFrame buf = .ok (framePacket buf) := by
  have hmarkers : ¬ (byteAt buf 0 ≠ Config.sof ∨ byteAt buf 8 ≠ Config.eof) := fun h => h.elim (· hsof) (· heof)
  rw [decodeFrame, if_neg (not_not.2 hlen), if_neg hmarkers, if_neg (not_not.2 hcrc)]

/-- ENCODE answers a frame only by building it from the value SCALE_ENC gives (R140, R141). -/
theorem encodeFrame_ok {mode : ScaleProduct} {cmd : Byte} {fval : F64} {flag : Bool} {f : List Byte}
    (h : encodeFrame mode cmd fval flag = .ok f) :
    ∃ fx, scaleEncode mode fval = .ok fx ∧ f = buildFrame cmd fx (flagsByte flag) := by
  unfold encodeFrame at h
  split at h
  next => cases h
  next fx hfx => cases h; exact ⟨fx, hfx, rfl⟩

theorem encodeFrame_of_exec {s t : State} {cmd : Byte} {fval : F64} {flag : Bool} {f : List Byte}
    (hexec : exec (.encode cmd fval flag) s = .next t) (hout : t.out = some (.ok (.frame f))) :
    encodeFrame s.scaleProduct cmd fval flag = .ok f := by
  cases (exec_eq_complete _ s).symm.trans hexec
  rw [State.complete_out, operationResult] at hout
  cases hframe : encodeFrame s.scaleProduct cmd fval flag with
  | ok g => rw [hframe] at hout; cases hout; rfl
  | error e => rw [hframe] at hout; cases hout

theorem exec_decode_of_ok {buf : List Byte} {p : Packet} (h : decodeFrame buf = .ok p) (s : State) :
    exec (.decode buf) s = .next { s with out := some (.ok (.pkt p)) } := by
  rw [exec_eq_complete, operationResult, h]
  rfl

/-- Settles O26: byte 6 of the frame ENCODE builds is its FLAGS byte, and the packet DECODE reads takes the flag from
bit 0 of byte 6 and nothing else from that byte. -/
theorem reservedFlagBitsZeroAndIgnored : Obligations.ReservedFlagBitsZeroAndIgnored := by
  constructor
  · intro s t cmd fval flag f hexec hout
    obtain ⟨fx, -, rfl⟩ := encodeFrame_ok (encodeFrame_of_exec hexec hout)
    rfl
  · intro cmd b0 b1 b2 b3 flags s
    rw [exec_decode_of_ok (decodeFrame_eq_framePacket rfl rfl rfl rfl), ← flagOf_eq]
    rfl

end Sys2Proof.Machine
end

section
/-! The statuses a request can complete with (30_encoding.md R72, R73; 60_exceptions.md R200): the errors each unit
raises, and ILLEGAL_OP for a reserved select. -/
namespace Sys2Proof.Machine

theorem fitS32_error {t : Int} {e : CodecError} (h : fitS32 t = .error e) : e = .valueRange := by
  unfold fitS32 at h
  split at h <;> cases h
  rfl

/-- SCALE_ENC raises nothing but ValueRangeError: for a value that is not finite, a product that overflows, or a
truncated integer that is no s32 (R120, R122). -/
theorem scaleEncode_error {mode : ScaleProduct} {fval : F64} {e : CodecError} (h : scaleEncode mode fval = .error e) :
    e = .valueRange := by
  unfold scaleEncode at h
  split at h
  · cases mode with
    | binary64Rne =>
      simp only at h
      split at h
      · exact fitS32_error h
      · cases h; rfl
    | exactReal => exact fitS32_error h
  · cases h; rfl

/-- ENCODE raises what SCALE_ENC raises (R141). -/
theorem encodeFrame_error {mode : ScaleProduct} {cmd : Byte} {fval : F64} {flag : Bool} {e : CodecError}
    (h : encodeFrame mode cmd fval flag = .error e) : e = .valueRange := by
  unfold encodeFrame at h
  split at h
  next e' he => cases h; exact scaleEncode_error he
  next => cases h

/-- DECODE raises FramingError or ChecksumError (R160, R161). -/
theorem decodeFrame_error {buf : List Byte} {e : CodecError} (h : decodeFrame buf = .error e) :
    e = .framing ∨ e = .checksum := by
  unfold decodeFrame at h
  split_ifs at h <;> cases h
  · exact .inl rfl
  · exact .inl rfl
  · exact .inr rfl

/-- A unit's rule completes with its value or with the error it raises (R14). -/
theorem toResult_map_cases {α : Type} (f : α → Value) (x : Except CodecError α) :
    (∃ a, toResult (x.map f) = .ok (f a)) ∨ ∃ e, x = .error e ∧ toResult (x.map f) = .error e := by
  cases x with
  | ok a => exact .inl ⟨a, rfl⟩
  | error e => exact .inr ⟨e, rfl, rfl⟩

/-- Settles O41: `operationResult` is the unit's value or one of the errors that unit raises. -/
theorem statusesByOperation : Obligations.StatusesByOperation := by
  intro i s
  refine ⟨operationResult s.scaleProduct i, exec_eq_complete i s, ?_⟩
  cases i with
  | crc8 data => exact ⟨_, rfl⟩
  | scaleDec fx => exact ⟨_, rfl⟩
  | scaleEnc fval =>
    refine (toResult_map_cases .fxOut _).imp_right fun ⟨e, he, hres⟩ => ?_
    obtain rfl := scaleEncode_error he
    exact congrArg statusCode hres
  | encode cmd fval flag =>
    refine (toResult_map_cases .frame _).imp_right fun ⟨e, he, hres⟩ => ?_
    obtain rfl := encodeFrame_error he
    exact congrArg statusCode hres
  | decode buf =>
    refine (toResult_map_cases .pkt _).imp_right fun ⟨e, he, hres⟩ => ?_
    obtain rfl | rfl := decodeFrame_error he
    · exact .inl (congrArg statusCode hres)
    · exact .inr (congrArg statusCode hres)

/-- Settles O37: the decoder answers a reserved select before it reads an operand, and the request is then retired with
ILLEGAL_OP. -/
theorem reservedOpselCompletesIllegalOp : Obligations.ReservedOpselCompletesIllegalOp := by
  intro s dest r hline hop
  refine ⟨?_, rfl⟩
  calc step s
    _ = underSetup s.toSetup (runRequest s.toSetup dest r s.toLive) := step_of_line _ hline
    _ = _ := by
      rw [runRequest_of_reserved (decodeRequest_of_op_reserved hop), retireOutcome_complete]
      rfl

end Sys2Proof.Machine
end

section
/-! The CRC8 register (40_crc8_engine.md R100 to R102): the bit step on integers, and the register after each byte,
which is the CRC8 of the bytes read so far. -/
namespace Sys2Proof.Machine

/-- R100 on integers: the mask drops the shifted-out bit, and the XOR with 0x07 happens below it. -/
theorem crcBitStep_toNat (c : Byte) :
    (crcBitStep c).toNat =
      if c.toNat.testBit 7 then ((c.toNat <<< 1) ^^^ 0x07) &&& 0xFF else (c.toNat <<< 1) &&& 0xFF := by
  have hmask : ∀ n : Nat, n &&& 0xFF = n % 2 ^ 8 := (Nat.and_two_pow_sub_one_eq_mod · 8)
  rw [crcBitStep, BitVec.getLsbD, hmask, hmask]
  split
  · rw [Nat.xor_mod_two_pow, BitVec.toNat_xor, BitVec.toNat_shiftLeft]
    rfl
  · rw [BitVec.toNat_shiftLeft]

@[simp] theorem crc8_nil : crc8 [] = 0x00 := rfl

/-- One more byte at the end is one more byte step of the register (R102). -/
@[simp] theorem crc8_concat (d : List Byte) (b : Byte) : crc8 (d ++ [b]) = crcByteStep (crc8 d) b :=
  List.foldl_concat ..

/-- The register after byte i absorbs byte i into the register before it (R101). -/
theorem crc8_take_succ {d : List Byte} {i : Nat} (h : i < d.length) :
    crc8 (d.take (i + 1)) = crcByteStep (crc8 (d.take i)) (byteAt d i) := by
  rw [← List.take_append_getElem h, crc8_concat, byteAt, List.getD_eq_getElem _ _ h]

/-- Settles O1: the register before byte i is the CRC8 of the first i bytes. -/
theorem crc8CompletesWithRegisterTrace : Obligations.Crc8CompletesWithRegisterTrace := by
  refine ⟨crcBitStep_toNat, fun data s => ⟨fun i => crc8 (data.take i), crc8_nil, fun _ => crc8_take_succ, ?_, rfl⟩⟩
  simp only [List.take_length]
  exact exec_eq_complete (.crc8 data) s

end Sys2Proof.Machine
end

section
/-! SCALE_ENC (41_fixed_point_scaler.md R120 to R123). The rule is the range check of the scaled value's truncation
where a scaled value exists, and ValueRangeError elsewhere (`scaleEncode_of_scalable`, `scaleEncode_of_not_scalable`). -/
namespace Sys2Proof.Machine

/-- Truncation toward zero of ±n/d: the quotient of the magnitudes under the sign (R121). -/
theorem truncReal_signFactor_mul (neg : Bool) (n d : Nat) :
    truncReal (signFactor neg * ((n : ℚ) / d)) = trunc0 neg n d := by
  have hfloor : ⌊(n : ℚ) / d⌋ = ((n / d : ℕ) : Int) := Rat.floor_natCast_div_natCast n d
  have hnonneg : (0 : ℚ) ≤ (n : ℚ) / d := by positivity
  unfold truncReal trunc0 signFactor
  cases neg
  case false => rw [if_neg Bool.false_ne_true, one_mul, if_pos hnonneg, hfloor, if_neg Bool.false_ne_true]
  case true =>
    rw [if_pos rfl, if_pos rfl, neg_one_mul, Int.ceil_neg, hfloor]
    refine ite_eq_right_iff.2 fun hle => ?_
    have hzero : (n : ℚ) / d = 0 := le_antisymm (neg_nonneg.1 hle) hnonneg
    rw [← hfloor, hzero, neg_zero, Int.floor_zero, neg_zero]

theorem truncReal_real (x : F64) : truncReal (real x) = trunc0 (signBit x) (units x) unitsPerOne :=
  truncReal_signFactor_mul ..

theorem truncReal_real_mul_scale (x : F64) :
    truncReal (real x * 1000) = trunc0 (signBit x) (units x * Config.scale) unitsPerOne := by
  rw [← truncReal_signFactor_mul, real_eq, ← units_eq, mul_assoc, div_mul_eq_mul_div, Nat.cast_mul, Nat.cast_ofNat]

theorem fitS32_of_range {t : Int} (hlow : -2 ^ 31 ≤ t) (hhigh : t ≤ 2 ^ 31 - 1) :
    fitS32 t = .ok (BitVec.ofInt 32 t) :=
  if_neg (by omega)

theorem fitS32_of_out_of_range {t : Int} (h : t < -2 ^ 31 ∨ 2 ^ 31 - 1 < t) : fitS32 t = .error .valueRange :=
  if_pos h

theorem toInt_ofInt_of_range {t : Int} (hlow : -2 ^ 31 ≤ t) (hhigh : t ≤ 2 ^ 31 - 1) :
    (BitVec.ofInt 32 t).toInt = t :=
  BitVec.toInt_ofInt_eq_self (by decide) hlow (by omega)

/-- Where a scaled value exists, SCALE_ENC checks the range of its truncation and of nothing else (R121, R122). -/
theorem scaleEncode_of_scalable {mode : ScaleProduct} {fval : F64} (h : Scalable mode fval) :
    scaleEncode mode fval = fitS32 (truncReal (scaledValue mode fval)) := by
  obtain ⟨hfin, hprod⟩ := h
  refine (if_pos hfin).trans ?_
  cases mode with
  | binary64Rne => exact (if_pos (hprod rfl)).trans (congrArg fitS32 (truncReal_real _).symm)
  | exactReal => exact congrArg fitS32 (truncReal_real_mul_scale fval).symm

/-- NaN, the infinities and an overflowing product have no scaled value to truncate (R120). -/
theorem scaleEncode_of_not_scalable {mode : ScaleProduct} {fval : F64} (h : ¬ Scalable mode fval) :
    scaleEncode mode fval = .error .valueRange := by
  by_cases hfin : isFinite fval = true
  · refine (if_pos hfin).trans ?_
    cases mode with
    | binary64Rne => exact if_neg fun hprod => h ⟨hfin, fun _ => hprod⟩
    | exactReal => exact absurd ⟨hfin, nofun⟩ h
  · exact if_neg hfin

/-- SCALE_ENC completes with what its rule answers and leaves the rest of the state as it is (R120). -/
theorem exec_scaleEnc_of_eq {s : State} {fval : F64} {r : Except CodecError S32}
    (h : scaleEncode s.scaleProduct fval = r) :
    exec (.scaleEnc fval) s = .next { s with out := some (toResult (r.map .fxOut)) } := by
  rw [exec_eq_complete, operationResult, h]
  rfl

/-- Settles O11: by `scaleEncode_of_scalable` the rule is the range check of the truncated scaled value. -/
theorem scaleEncCompletes : Obligations.ScaleEncCompletes := by
  intro s fval
  refine ⟨fun h => ⟨fun hlow hhigh => ?_, fun hout => ?_⟩, fun h => ?_, rfl⟩
  · exact ⟨_, toInt_ofInt_of_range hlow hhigh,
      exec_scaleEnc_of_eq ((scaleEncode_of_scalable h).trans (fitS32_of_range hlow hhigh))⟩
  · exact exec_scaleEnc_of_eq ((scaleEncode_of_scalable h).trans (fitS32_of_out_of_range hout))
  · exact exec_scaleEnc_of_eq (scaleEncode_of_not_scalable h)

end Sys2Proof.Machine
end

section
/-! SCALE_DEC (41_fixed_point_scaler.md R125). Its result is the binary64 nearest to fx / 1000 (`scaleDecode_roundsTo`);
rounding is monotone, so the results for 1 and -1 bound those of every other nonzero operand away from zero. -/
namespace Sys2Proof.Machine

/-- Rounding is monotone: were the results the other way round, exchanging them would bring one nearer to its real. -/
theorem RoundsTo.real_le_of_lt {x y : ℚ} {q r : F64} (hq : RoundsTo x q) (hr : RoundsTo y r) (h : x < y) :
    real q ≤ real r := by
  by_contra! hlt
  have hx := sq_le_sq.2 (hq.2 r hr.1).1
  have hy := sq_le_sq.2 (hr.2 q hq.1).1
  have hpos := mul_pos (sub_pos.2 hlt) (sub_pos.2 h)
  linarith

theorem expField_le_of_abs_real_le {a b : F64} (h : |real a| ≤ |real b|) : expField a ≤ expField b := by
  rw [abs_real, abs_real, div_le_div_iff_of_pos_right cast_unitsPerOne_pos, Nat.cast_le,
    magnitude_strictMono.le_iff_le] at h
  rw [expField_eq, expField_eq]
  exact Nat.div_le_div_right h

theorem toInt_range (fx : S32) : -2 ^ 31 ≤ fx.toInt ∧ fx.toInt < 2 ^ 31 :=
  ⟨BitVec.le_toInt fx, BitVec.toInt_lt⟩

theorem toF64_toInt_exact (fx : S32) : isFinite (toF64 fx.toInt) = true ∧ real (toF64 fx.toInt) = fx.toInt := by
  have := toInt_range fx
  exact toF64Exact _ (by omega) (by omega)

theorem scaleF64_exact : isFinite scaleF64 = true ∧ real scaleF64 = 1000 := by
  have h : toF64 1000 = scaleF64 := by decide +kernel
  exact h ▸ toF64Exact 1000 (by decide) (by decide)

theorem signBit_toF64 (n : Int) : signBit (toF64 n) = decide (n < 0) :=
  signBit_packF64 ..

theorem signBit_scaleDecode (fx : S32) : signBit (scaleDecode fx) = decide (fx.toInt < 0) := by
  have hscale : signBit scaleF64 = false := by decide
  rw [scaleDecode, fdiv64, signBit_packF64, signBit_toF64, hscale, Bool.xor_false]

/-- The operand and the divisor are exact, and the quotient is below the overflow threshold as the operand is. -/
theorem scaleDecode_roundsTo (fx : S32) : RoundsTo ((fx.toInt : ℚ) / 1000) (scaleDecode fx) := by
  obtain ⟨hfin, hreal⟩ := toF64_toInt_exact fx
  obtain ⟨hscaleFin, hscale⟩ := scaleF64_exact
  obtain ⟨-, hround, -⟩ := fdivRoundsToNearestEven _ _ hfin hscaleFin (by rw [hscale]; norm_num)
  rw [hreal, hscale] at hround
  refine hround ?_
  calc |(fx.toInt : ℚ) / 1000|
    _ ≤ |(fx.toInt : ℚ)| := by
      rw [abs_div]
      exact div_le_self (abs_nonneg _) (by norm_num)
    _ < 2 ^ 1024 - 2 ^ 970 := hreal ▸ abs_real_lt_of_isFinite hfin

theorem real_scaleDecode_mono {m n : S32} (h : m.toInt ≤ n.toInt) : real (scaleDecode m) ≤ real (scaleDecode n) := by
  rcases h.eq_or_lt with heq | hlt
  · rw [BitVec.eq_of_toInt_eq heq]
  · have hlt' : (m.toInt : ℚ) / 1000 < n.toInt / 1000 := by
      rw [div_lt_div_iff_of_pos_right (by norm_num)]
      exact_mod_cast hlt
    exact (scaleDecode_roundsTo m).real_le_of_lt (scaleDecode_roundsTo n) hlt'

/-- A multiple of 1000 has an integer quotient, itself a binary64 value (R125). -/
theorem real_scaleDecode_of_dvd {fx : S32} (h : (1000 : Int) ∣ fx.toInt) :
    real (scaleDecode fx) = (fx.toInt : ℚ) / 1000 := by
  obtain ⟨k, hk⟩ := h
  have := toInt_range fx
  obtain ⟨hfin, hreal⟩ := toF64Exact k (by omega) (by omega)
  refine (scaleDecode_roundsTo fx).real_eq_of_representable hfin ?_
  rw [hreal, hk, Int.cast_mul, Int.cast_ofNat, mul_div_cancel_left₀ _ (by norm_num)]

theorem scaleDecode_one : scaleDecode 1 = 0x3F50624DD2F1A9FC := by decide +kernel

theorem scaleDecode_neg_one : scaleDecode (-1) = 0xBF50624DD2F1A9FC := by decide +kernel

/-- The results for 1 and -1 have one magnitude, and every other nonzero result lies beyond one of them. -/
theorem le_abs_real_scaleDecode {fx : S32} (h : fx.toInt ≠ 0) : real 0x3F50624DD2F1A9FC ≤ |real (scaleDecode fx)| := by
  rcases h.lt_or_gt with hneg | hpos
  · have hle := real_scaleDecode_mono (m := fx) (n := -1) (Int.le_sub_one_of_lt hneg)
    have hopp : real 0xBF50624DD2F1A9FC = -real 0x3F50624DD2F1A9FC := by decide +kernel
    rw [scaleDecode_neg_one, hopp] at hle
    exact (le_neg_of_le_neg hle).trans (neg_le_abs _)
  · have hle := real_scaleDecode_mono (m := 1) (n := fx) hpos
    rw [scaleDecode_one] at hle
    exact hle.trans (le_abs_self _)

/-- The exponent of 0.001 is positive, and a result of at least that magnitude has at least that exponent. -/
theorem expField_scaleDecode_ne_zero {fx : S32} (h : fx.toInt ≠ 0) : expField (scaleDecode fx) ≠ 0 := by
  have habs : |real 0x3F50624DD2F1A9FC| = real 0x3F50624DD2F1A9FC := by decide +kernel
  have hexp := expField_le_of_abs_real_le (habs.trans_le (le_abs_real_scaleDecode h))
  have hmin : expField 0x3F50624DD2F1A9FC = 1013 := by decide
  omega

/-- Settles O13: the result is `scaleDecode fx`, whose properties are those of rounding fx / 1000. -/
theorem scaleDecCompletes : Obligations.ScaleDecCompletes := by
  refine ⟨fun s fx => ⟨scaleDecode fx, exec_eq_complete (.scaleDec fx) s, scaleDecode_roundsTo fx,
    signBit_scaleDecode fx, fun h => ?_,
    fun h => ⟨expField_scaleDecode_ne_zero h, le_abs_real_scaleDecode h⟩, real_scaleDecode_of_dvd, rfl⟩,
    scaleDecode_one, scaleDecode_neg_one, ?_, ?_⟩
  · rw [scaleDecode, h]
    decide +kernel
  · decide +kernel
  · decide +kernel

end Sys2Proof.Machine
end

section
/-! ENCODE (42_packet_encoder.md R140, R141). Its rule is SCALE_ENC followed by the frame builder
(`encodeFrame_eq_map`), so it completes with the whole frame or with SCALE_ENC's error and no frame. -/
namespace Sys2Proof.Machine

theorem encodeFrame_eq_map (mode : ScaleProduct) (cmd : Byte) (fval : F64) (flag : Bool) :
    encodeFrame mode cmd fval flag = (scaleEncode mode fval).map (buildFrame cmd · (flagsByte flag)) := by
  unfold encodeFrame
  cases scaleEncode mode fval with
  | ok fx => rfl
  | error e => rfl

theorem exec_encode_of_eq {s : State} {fval : F64} {r : Except CodecError S32}
    (h : scaleEncode s.scaleProduct fval = r) (cmd : Byte) (flag : Bool) :
    exec (.encode cmd fval flag) s =
      .next (s.complete (toResult ((r.map (buildFrame cmd · (flagsByte flag))).map .frame))) := by
  rw [exec_eq_complete, operationResult, encodeFrame_eq_map, h]

/-- The frame byte by byte, given the four bytes of the VALUE field (R61, R66). -/
theorem buildFrame_eq {fx : S32} {b0 b1 b2 b3 : Byte} (h : leBytes32 fx = [b0, b1, b2, b3]) (cmd flags : Byte) :
    buildFrame cmd fx flags =
      [0xAA, cmd, b0, b1, b2, b3, flags, crc8 [cmd, b0, b1, b2, b3, flags], 0x55] := by
  rw [buildFrame, h]
  rfl

theorem flagsByte_toNat (flag : Bool) : (flagsByte flag).toNat = if flag then 1 else 0 := by
  cases flag with
  | false => rfl
  | true => rfl

/-- Settles O18: the VALUE bytes are those of `leBytes32_eq`, and the only error of SCALE_ENC is ValueRangeError. -/
theorem encodeCompletes : Obligations.EncodeCompletes := by
  intro s cmd fval flag
  refine ⟨fun fx hfx => ?_, fun e he => ?_, rfl⟩
  · have hb3 : fx.toNat / 2 ^ 24 < 2 ^ 8 := by omega
    refine ⟨_, _, _, _, flagsByte flag, BitVec.toNat_ofNat .., BitVec.toNat_ofNat .., BitVec.toNat_ofNat ..,
      toNat_ofNat_of_lt hb3, flagsByte_toNat flag, ?_⟩
    rw [← buildFrame_eq (leBytes32_eq fx)]
    exact exec_encode_of_eq hfx cmd flag
  · obtain rfl := scaleEncode_error he
    exact ⟨rfl, exec_encode_of_eq he cmd flag⟩

end Sys2Proof.Machine
end

section
/-! DECODE (43_packet_decoder.md R160, R161): what each check answers where it fails, and the packet of nine bytes that
pass all of them. -/
namespace Sys2Proof.Machine

section
variable {buf : List Byte}

theorem decodeFrame_of_length_ne (hlen : buf.length ≠ 9) : decodeFrame buf = .error .framing := by
  rw [decodeFrame, if_pos hlen]

/-- A wrong marker is a FramingError at any length, as a wrong length is one too. -/
theorem decodeFrame_of_marker_ne (hmarkers : byteAt buf 0 ≠ Config.sof ∨ byteAt buf 8 ≠ Config.eof) :
    decodeFrame buf = .error .framing := by
  rw [decodeFrame, if_pos hmarkers, ite_self]

theorem decodeFrame_of_crc_ne (hlen : buf.length = 9)
    (hmarkers : ¬ (byteAt buf 0 ≠ Config.sof ∨ byteAt buf 8 ≠ Config.eof))
    (hcrc : crc8 (slice buf 1 6) ≠ byteAt buf 7) : decodeFrame buf = .error .checksum := by
  rw [decodeFrame, if_neg (not_not.2 hlen), if_neg hmarkers, if_pos hcrc]

theorem exec_decode_of_error {e : CodecError} (h : decodeFrame buf = .error e) (s : State) :
    exec (.decode buf) s = .next { s with out := some (.error e) } := by
  rw [exec_eq_complete, operationResult, h]
  rfl

end

theorem flagOf_eq_getLsbD (flags : Byte) : flagOf flags = flags.getLsbD 0 :=
  (flagOf_eq flags).trans (Nat.testBit_zero flags.toNat).symm

/-- The packet of nine bytes, field by field (R64, R65, R160). -/
theorem framePacket_eq (sof cmd b0 b1 b2 b3 flags crc eof : Byte) :
    framePacket [sof, cmd, b0, b1, b2, b3, flags, crc, eof] =
      { cmd := cmd
        value := scaleDecode (int32Le [b0, b1, b2, b3])
        valueFx := int32Le [b0, b1, b2, b3]
        flag := flags.getLsbD 0 } := by
  rw [← flagOf_eq_getLsbD]
  rfl

/-- Settles O22: the checks in R161's order, each with its own error, and the packet field by field where all pass. -/
theorem decodeCompletes : Obligations.DecodeCompletes := by
  refine ⟨fun s buf hlen => exec_decode_of_error (decodeFrame_of_length_ne hlen) s, fun _ => rfl, ?_⟩
  intro s sof cmd b0 b1 b2 b3 flags crc eof
  split_ifs with hmarkers hcrc
  · apply exec_decode_of_error
    exact decodeFrame_of_marker_ne hmarkers
  · apply exec_decode_of_error
    exact decodeFrame_of_crc_ne rfl hmarkers hcrc
  · obtain ⟨hsof, heof⟩ := not_or.1 hmarkers
    have hok : decodeFrame [sof, cmd, b0, b1, b2, b3, flags, crc, eof] = .ok (framePacket _) :=
      decodeFrame_eq_framePacket rfl (not_not.1 hsof) (not_not.1 heof) (not_not.1 hcrc)
    rw [exec_decode_of_ok hok, framePacket_eq]
    rfl

end Sys2Proof.Machine
end

section
/-! SERVICE's loop without the bound on its passes (44_reframer.md R182): one equation per way a pass can go. -/
namespace Sys2Proof.Machine

theorem scan_eq_dropWhile (rbuf : List Byte) : scan rbuf = rbuf.dropWhile (fun b => b != Config.sof) := by
  induction rbuf with
  | nil => rfl
  | cons b rest ih =>
    by_cases h : b = Config.sof
    · subst h
      rw [scan_sof, List.dropWhile_cons_of_neg (by simp)]
    · rw [scan_cons_of_ne rest h, ih, List.dropWhile_cons, if_pos (bne_iff_ne.2 h)]

theorem serviceLoop_eq_service {n : Nat} {rbuf : List Byte} (h : rbuf.length < n) :
    serviceLoop n rbuf = service rbuf :=
  serviceLoop_fuel_irrelevant h (Nat.lt_succ_self _)

/-- A pass that consumes some of the scanned bytes leaves enough passes for what follows them (R184). -/
theorem serviceLoop_drop_scan {rbuf : List Byte} {k : Nat} (hk : 0 < k) (hlong : 9 ≤ (scan rbuf).length) :
    serviceLoop rbuf.length ((scan rbuf).drop k) = service ((scan rbuf).drop k) := by
  apply serviceLoop_eq_service
  have := scan_length_le rbuf
  rw [List.length_drop]
  omega

section
variable {rbuf : List Byte}

theorem service_of_short (hshort : (scan rbuf).length < 9) : service rbuf = (scan rbuf, []) :=
  if_pos hshort

theorem service_of_ok {p : Packet} (hlong : 9 ≤ (scan rbuf).length) (hp : decodeFrame ((scan rbuf).take 9) = .ok p) :
    service rbuf = ((service ((scan rbuf).drop 9)).1, p :: (service ((scan rbuf).drop 9)).2) := by
  simp only [service.eq_1 rbuf, serviceLoop, if_neg (not_lt.2 hlong), hp,
    serviceLoop_drop_scan (k := Config.frameLen) (by decide) hlong]

theorem service_of_error {e : CodecError} (hlong : 9 ≤ (scan rbuf).length)
    (he : decodeFrame ((scan rbuf).take 9) = .error e) : service rbuf = service ((scan rbuf).drop 1) := by
  simp only [service.eq_1 rbuf, serviceLoop, if_neg (not_lt.2 hlong), he, serviceLoop_drop_scan Nat.one_pos hlong]

end

/-- Settles O27: a pass waits, delivers or discards, and the passes left after it are enough for the rest. -/
theorem serviceFollowsItsLoop : Obligations.ServiceFollowsItsLoop := by
  intro rbuf
  refine ⟨scan_eq_dropWhile rbuf, ?_⟩
  split_ifs with hshort
  · exact service_of_short hshort
  · have hlong : 9 ≤ (scan rbuf).length := not_lt.1 hshort
    split
    next p hp => exact service_of_ok hlong hp
    next e he => exact service_of_error hlong he

end Sys2Proof.Machine
end

section
/-! What a line leaves alone (60_exceptions.md R209, R217): a well-formed request writes its variable and nothing else of
the tables, and a send that hands over a frame writes its channel. -/
namespace Sys2Proof.Machine

/-- A well-formed request completes whether its select is an operation's or a reserved one. -/
theorem step_of_wellFormed_request {s : State} {dest : Nat} {r : Request}
    (hline : s.program[s.pc]? = some (.request dest r)) (hwf : r.wellFormed = true) :
    ∃ res, step s = .next { s with vars := tblSet s.vars dest res, out := none, pc := s.pc + 1 } := by
  obtain hop | hop := Nat.lt_or_ge r.op 5
  · obtain ⟨i, hdecode, -⟩ := decodeRequest_of_wellFormed hwf hop
    obtain ⟨res, hexec⟩ := exec_completes i s
    exact ⟨res, stepRunsDecodedRequest s (s.complete res) dest r i res hline hdecode hexec rfl⟩
  · have hreserved := op_reserved_of_wellFormed hwf hop
    exact ⟨_, (reservedOpselCompletesIllegalOp s dest r hline hreserved).1⟩

/-- Settles O36: the step writes one entry of the variable table, and every other read of it passes that entry by. -/
theorem everyAdmittedRequestCompletes : Obligations.EveryAdmittedRequestCompletes := by
  intro s dest r hline hwf
  obtain ⟨res, hstep⟩ := step_of_wellFormed_request hline hwf
  exact ⟨res, _, hstep, rfl, rfl, tblFind_tblSet_self s.vars dest res, fun _ hv => tblFind_tblSet_ne s.vars res hv⟩

/-- An action on a channel with an active session writes that channel's record and moves the index. -/
theorem onOpenChannel_of_active {ch : Nat} {c : Channel} {m : Live} (hc : tblFind m.channels ch = some c)
    (hactive : c.session = .active) (f : Channel → Channel) :
    onOpenChannel ch f m = .next (m.putChannel ch (f c)).advance := by
  simp only [onOpenChannel, hc, if_pos hactive]

theorem sendFrame_of_frame {src : Nat} {f : List Byte} {m : Live}
    (hsrc : tblFind m.vars src = some (.ok (.frame f))) (ch : Nat) :
    sendFrame ch src m = onOpenChannel ch (fun c => { c with sent := c.sent ++ f }) m := by
  simp only [sendFrame, hsrc, resultBytes]

theorem sendFrame_of_error {src : Nat} {e : CodecError} {m : Live} (hsrc : tblFind m.vars src = some (.error e))
    (ch : Nat) : sendFrame ch src m = .next m.advance := by
  simp only [sendFrame, hsrc]

/-- Settles O43: a frame reaches its channel's record by one write of the channel table, and an error only moves the
index. -/
theorem sendHandsOverTheFrame : Obligations.SendHandsOverTheFrame := by
  intro s ch src hline
  have hstep : step s = underSetup s.toSetup (sendFrame ch src s.toLive) := step_of_line _ hline
  refine ⟨fun f c hsrc hc hactive => ?_, fun e hsrc => ?_⟩
  · rw [sendFrame_of_frame hsrc, onOpenChannel_of_active hc hactive] at hstep
    exact ⟨_, hstep, rfl, tblFind_tblSet_self s.channels ch _, fun _ hk => tblFind_tblSet_ne s.channels _ hk⟩
  · rw [sendFrame_of_error hsrc] at hstep
    exact hstep

end Sys2Proof.Machine
end

section
/-! The relative error of rounding (00_scope.md R13): a product or quotient of at least 2^-1022, the least normal
magnitude, is off by at most 2^-53 of itself. -/
namespace Sys2Proof.Machine

/-- The relative error of one rounding in the normal range, 2^-53: half a unit in the last place of 53 bits. -/
def roundingError : ℚ :=
  1 / 2 ^ 53

/-- From 2^52 units on the rounded magnitude has a full significand, and half its last place is the error. -/
theorem abs_magnitude_roundPattern_sub_le {n d : Nat} (hd : 0 < d) (hnormal : 2 ^ 52 * d ≤ n) :
    |(magnitude (roundPattern n d) : ℚ) - n / d| ≤ n / d * roundingError := by
  obtain ⟨hupper, hlower⟩ := roundPattern_step_bounds n hd
  rw [roundPattern]
  generalize Nat.log2 (n / d) - 52 = k at hupper hlower ⊢
  have hD : 0 < d * 2 ^ k := by positivity
  have hgrid : 2 ^ 52 * (d * 2 ^ k) ≤ n := by
    rcases hlower with rfl | h
    · simpa using hnormal
    · exact h
  have hstep : (2 : ℚ) ^ 52 * 2 ^ k ≤ n / d := by
    rw [le_div_iff₀ (by exact_mod_cast hd)]
    exact_mod_cast (by linarith : 2 ^ 52 * 2 ^ k * d ≤ n)
  rw [magnitude_significand (roundHalfEven_le hD hupper) (.inr (le_roundHalfEven hD hgrid)), abs_grid_sub_div _ _ _ hd]
  calc _ ≤ 1 / 2 * (2 : ℚ) ^ k := mul_le_mul_of_nonneg_right (roundHalfEven_within_half n hD).1 (by positivity)
    _ = 2 ^ 52 * 2 ^ k * roundingError := by rw [roundingError]; ring
    _ ≤ _ := mul_le_mul_of_nonneg_right hstep (by unfold roundingError; positivity)

/-- The least normal magnitude. -/
def leastNormal : ℚ :=
  1 / 2 ^ 1022

theorem leastNormal_le : leastNormal ≤ 1 / 2 ^ 11 :=
  one_div_le_one_div_of_le (by positivity) (pow_le_pow_right₀ one_le_two (by decide))

/-- The least normal magnitude is 2^52 units. -/
theorem leastNormal_mul_unitsPerOne : leastNormal * unitsPerOne = 2 ^ 52 := by
  rw [leastNormal, unitsPerOne, Nat.cast_pow, Nat.cast_ofNat, show 1074 = 1022 + 52 from rfl, pow_add, ← mul_assoc,
    one_div_mul_cancel (pow_ne_zero _ two_ne_zero), one_mul]

/-- The relative error of a rounded ±n/d units, where rounding does not overflow. -/
theorem abs_real_packF64_sub_le (neg : Bool) {n d : Nat} (hd : 0 < d) {x : ℚ}
    (hx : x = signFactor neg * ((n : ℚ) / d / unitsPerOne)) (hnormal : leastNormal ≤ |x|)
    (hfin : isFinite (packF64 neg (roundPattern n d)) = true) :
    |real (packF64 neg (roundPattern n d)) - x| ≤ |x| * roundingError := by
  have ht : (0 : ℚ) ≤ (n : ℚ) / d := by positivity
  have hU := cast_unitsPerOne_pos
  have hxabs : |x| = (n : ℚ) / d / unitsPerOne := by
    rw [hx, abs_signFactor_mul, abs_of_nonneg (div_nonneg ht hU.le)]
  have hP : magPattern (packF64 neg (roundPattern n d)) = roundPattern n d := by
    rw [magPattern_packF64, Nat.min_eq_left]
    by_contra! hinf
    exact absurd hfin (by rw [isFinite_iff, magPattern_packF64, Nat.min_eq_right hinf.le]; exact lt_irrefl _)
  have hlarge : 2 ^ 52 * d ≤ n := by
    rw [hxabs, le_div_iff₀ hU, leastNormal_mul_unitsPerOne, le_div_iff₀ (by exact_mod_cast hd)] at hnormal
    exact_mod_cast hnormal
  rw [hxabs, real_eq, signBit_packF64, hP, hx, ← mul_sub, abs_signFactor_mul, ← sub_div, abs_div, abs_of_pos hU,
    div_mul_eq_mul_div]
  exact div_le_div_of_nonneg_right (abs_magnitude_roundPattern_sub_le hd hlarge) hU.le

theorem abs_real_fmul64_sub_le {a b : F64} (hnormal : leastNormal ≤ |real a * real b|)
    (hfin : isFinite (fmul64 a b) = true) :
    |real (fmul64 a b) - real a * real b| ≤ |real a * real b| * roundingError :=
  abs_real_packF64_sub_le _ unitsPerOne_pos (real_mul_real a b) hnormal hfin

theorem abs_real_fdiv64_sub_le {a b : F64} (hb : 0 < units b) (hnormal : leastNormal ≤ |real a / real b|)
    (hfin : isFinite (fdiv64 a b) = true) :
    |real (fdiv64 a b) - real a / real b| ≤ |real a / real b| * roundingError :=
  abs_real_packF64_sub_le _ hb (real_div_real a b hb) hnormal hfin

end Sys2Proof.Machine
end

section
/-! SCALE_ENC and SCALE_DEC together (41_fixed_point_scaler.md sections 1 to 3). SCALE_ENC answers t exactly where the
scaled value exists and truncates to t (`scaleEncode_eq_ok_iff`); every law is then a statement about the two rounded
reals, each within `roundingError` of the exact one. -/
namespace Sys2Proof.Machine

/-! ### Truncation -/

/-- Toward zero: the integer below a real that is not negative, above one that is not positive (R121, R124). -/
theorem truncReal_eq_of_mem {r : ℚ} {n : Int}
    (h : (0 ≤ n ∧ (n : ℚ) ≤ r ∧ r < n + 1) ∨ (n ≤ 0 ∧ (n : ℚ) - 1 < r ∧ r ≤ n)) : truncReal r = n := by
  unfold truncReal
  rcases h with ⟨hn, hlow, hhigh⟩ | ⟨hn, hlow, hhigh⟩
  · have hn' : (0 : ℚ) ≤ n := by exact_mod_cast hn
    rw [if_pos (hn'.trans hlow)]
    exact Int.floor_eq_iff.2 ⟨hlow, hhigh⟩
  · have hn' : (n : ℚ) ≤ 0 := by exact_mod_cast hn
    split_ifs with hr
    · exact Int.floor_eq_iff.2 ⟨hn'.trans hr, by linarith⟩
    · exact Int.ceil_eq_iff.2 ⟨hlow, hhigh⟩

theorem truncReal_intCast (n : Int) : truncReal n = n := by
  unfold truncReal
  rw [Int.floor_intCast, Int.ceil_intCast, ite_self]

/-- Truncation moves a real by less than 1, and not away from zero. -/
theorem abs_truncReal_sub_lt (r : ℚ) : |(truncReal r : ℚ) - r| < 1 ∧ |(truncReal r : ℚ)| ≤ |r| := by
  unfold truncReal
  split_ifs with hr
  · have hfloor : (0 : ℚ) ≤ ⌊r⌋ := by exact_mod_cast Int.floor_nonneg.2 hr
    have hle := Int.floor_le r
    have hlt := Int.lt_floor_add_one r
    rw [abs_of_nonneg hfloor, abs_of_nonneg hr]
    exact ⟨abs_lt.2 ⟨by linarith, by linarith⟩, hle⟩
  · have hneg := not_le.1 hr
    have hceil : (⌈r⌉ : ℚ) ≤ 0 := by exact_mod_cast Int.ceil_le.2 (by simpa using hneg.le)
    have hle := Int.le_ceil r
    have hlt := Int.ceil_lt_add_one r
    rw [abs_of_nonpos hceil, abs_of_neg hneg]
    exact ⟨abs_lt.2 ⟨by linarith, by linarith⟩, by linarith⟩

/-- SCALE_ENC answers the s32 that the scaled value truncates to, where there is one (R120 to R122). -/
theorem scaleEncode_eq_ok_iff {mode : ScaleProduct} {fval : F64} {t : S32} :
    scaleEncode mode fval = .ok t ↔ Scalable mode fval ∧ truncReal (scaledValue mode fval) = t.toInt := by
  by_cases hs : Scalable mode fval
  · rw [scaleEncode_of_scalable hs, and_iff_right hs]
    constructor
    · intro h
      by_cases hrange : -2 ^ 31 ≤ truncReal (scaledValue mode fval) ∧ truncReal (scaledValue mode fval) ≤ 2 ^ 31 - 1
      · obtain ⟨hlow, hhigh⟩ := hrange
        rw [fitS32_of_range hlow hhigh] at h
        cases h
        exact (toInt_ofInt_of_range hlow hhigh).symm
      · rw [fitS32_of_out_of_range (by omega)] at h
        cases h
    · intro h
      have := toInt_range t
      rw [h, fitS32_of_range (by omega) (by omega), BitVec.ofInt_toInt]
  · rw [scaleEncode_of_not_scalable hs]
    exact ⟨nofun, fun h => absurd h.1 hs⟩

/-- Settles O12: both intervals of n are what truncates to n, and 0.0 and 0.0009 both give 0. -/
theorem scaleEncIntervals : Obligations.ScaleEncIntervals := by
  refine ⟨fun mode fval n hs h => scaleEncode_eq_ok_iff.2 ⟨hs, truncReal_eq_of_mem h⟩, fun mode => ?_⟩
  refine ⟨0, 0x3F4D7DBF487FCB92, by decide +kernel, 0, ?_⟩
  cases mode with
  | binary64Rne => decide +kernel
  | exactReal => decide +kernel

/-! ### The two roundings -/

theorem roundingError_pos : 0 < roundingError := by
  unfold roundingError; norm_num

/-- Far below the overflow threshold (R13). -/
theorem lt_overflow_of_le {x : ℚ} (h : x ≤ 2 ^ 53) : x < 2 ^ 1024 - 2 ^ 970 := by
  obtain ⟨hfin, hreal⟩ := toF64Exact (2 ^ 53) (by decide) le_rfl
  have hlt := (le_abs_self _).trans_lt (abs_real_lt_of_isFinite hfin)
  rw [hreal] at hlt
  exact h.trans_lt (by exact_mod_cast hlt)

/-- The rounded quotient of an exact integer by a divisor up to 2000: no such quotient overflows or is subnormal. -/
theorem fdiv64_toF64_near {c d : Int} (hc : |c| ≤ 2 ^ 53) (hd : 0 < d) (hd' : d ≤ 2000) :
    isFinite (fdiv64 (toF64 c) (toF64 d)) = true ∧
    |real (fdiv64 (toF64 c) (toF64 d)) - (c : ℚ) / d| ≤ |(c : ℚ) / d| * roundingError := by
  obtain ⟨hclow, hchigh⟩ := abs_le.1 hc
  obtain ⟨hcfin, hcreal⟩ := toF64Exact c hclow hchigh
  obtain ⟨hdfin, hdreal⟩ := toF64Exact d (by omega) (by omega)
  have hdpos : (1 : ℚ) ≤ d := by exact_mod_cast hd
  have hdle : (d : ℚ) ≤ 2000 := by exact_mod_cast hd'
  have hdne : real (toF64 d) ≠ 0 := by rw [hdreal]; linarith
  obtain ⟨-, hround, -⟩ := fdivRoundsToNearestEven _ _ hcfin hdfin hdne
  have habs : |(c : ℚ) / d| = |(c : ℚ)| / d := by rw [abs_div, abs_of_pos (by linarith : (0 : ℚ) < d)]
  have hbound : |(c : ℚ) / d| ≤ 2 ^ 53 := by
    rw [habs]
    exact (div_le_self (abs_nonneg _) hdpos).trans (by exact_mod_cast hc)
  have herr := abs_real_fdiv64_sub_le (a := toF64 c) (units_pos_of_real_ne_zero hdne)
  rw [hcreal, hdreal] at hround herr
  have hto := hround (lt_overflow_of_le hbound)
  refine ⟨hto.1, ?_⟩
  rcases eq_or_ne c 0 with rfl | h0
  · rw [hto.real_eq_of_representable hcfin (by rw [hcreal]; simp)]
    simp
  · refine herr (leastNormal_le.trans ?_) hto.1
    have hone : (1 : ℚ) ≤ |(c : ℚ)| := by exact_mod_cast Int.one_le_abs h0
    rw [habs, le_div_iff₀ (by linarith)]
    linarith

/-- SCALE_DEC is off by at most 2^-53 of the quotient (R125, R127). -/
theorem abs_real_scaleDecode_sub_le (fx : S32) :
    |real (scaleDecode fx) - (fx.toInt : ℚ) / 1000| ≤ |(fx.toInt : ℚ) / 1000| * roundingError := by
  have := toInt_range fx
  obtain ⟨-, herr⟩ := fdiv64_toF64_near (c := fx.toInt) (d := 1000) (abs_le.2 (by omega)) (by decide) (by decide)
  rwa [show toF64 1000 = scaleF64 by decide +kernel, Int.cast_ofNat] at herr

theorem scaledValue_binary64Rne (fval : F64) : scaledValue .binary64Rne fval = real (fmul64 fval scaleF64) := rfl

/-- The product by 1000.0 rounds the operand times 1000 (R120). -/
theorem fmul64_scaleF64_roundsTo {fval : F64} (hfin : isFinite fval = true) (h : |real fval * 1000| ≤ 2 ^ 53) :
    RoundsTo (real fval * 1000) (fmul64 fval scaleF64) := by
  obtain ⟨hscaleFin, hscale⟩ := scaleF64_exact
  obtain ⟨-, hround, -⟩ := fmulRoundsToNearestEven _ _ hfin hscaleFin
  rw [hscale] at hround
  exact hround (lt_overflow_of_le h)

theorem scalable_of_abs_le {mode : ScaleProduct} {fval : F64} (hfin : isFinite fval = true)
    (h : |real fval * 1000| ≤ 2 ^ 53) : Scalable mode fval :=
  ⟨hfin, fun _ => (fmul64_scaleF64_roundsTo hfin h).1⟩

/-- The scaled value is off by at most 2^-53 of the operand times 1000, in either mode. -/
theorem abs_scaledValue_sub_le {mode : ScaleProduct} {fval : F64} (hs : Scalable mode fval)
    (hnormal : leastNormal ≤ |real fval * 1000|) :
    |scaledValue mode fval - real fval * 1000| ≤ |real fval * 1000| * roundingError := by
  cases mode with
  | binary64Rne =>
    have herr := abs_real_fmul64_sub_le (a := fval) (b := scaleF64)
    rw [scaleF64_exact.2] at herr
    exact herr hnormal (hs.2 rfl)
  | exactReal =>
    rw [scaledValue, sub_self, abs_zero]
    exact mul_nonneg (abs_nonneg _) roundingError_pos.le

/-- A small operand scales below 1: the rounded product is as near to the exact one as 0 is. -/
theorem abs_scaledValue_lt_one {mode : ScaleProduct} {fval : F64} (hs : Scalable mode fval)
    (hsmall : |real fval * 1000| < 1 / 2) : |scaledValue mode fval| < 1 := by
  cases mode with
  | binary64Rne =>
    have hnear := ((fmul64_scaleF64_roundsTo hs.1 (by linarith)).2 0 (by decide)).1
    rw [show real 0 = 0 by decide +kernel, zero_sub, abs_neg, ← scaledValue_binary64Rne] at hnear
    have htri := abs_sub_abs_le_abs_sub (scaledValue .binary64Rne fval) (real fval * 1000)
    linarith
  | exactReal => exact hsmall.trans (by norm_num)

/-- What SCALE_ENC answers, against the exact product (R127): less than 1 off by truncation, and 2^-53 of the product
by rounding. -/
theorem toInt_of_scaleEncode_ok {mode : ScaleProduct} {fval : F64} {t : S32} (h : scaleEncode mode fval = .ok t) :
    |(t.toInt : ℚ) - real fval * 1000| < 1 + |real fval * 1000| * roundingError ∧
    |(t.toInt : ℚ)| ≤ |real fval * 1000| * (1 + roundingError) := by
  obtain ⟨hs, ht⟩ := scaleEncode_eq_ok_iff.1 h
  have hpos := roundingError_pos
  have hx := abs_nonneg (real fval * 1000)
  obtain ⟨htrunc, hle⟩ := abs_truncReal_sub_lt (scaledValue mode fval)
  rw [ht] at htrunc hle
  rcases lt_or_ge |real fval * 1000| (1 / 2) with hsmall | hlarge
  · have hzero : t.toInt = 0 := by
      have hlt : |(t.toInt : ℚ)| < 1 := hle.trans_lt (abs_scaledValue_lt_one hs hsmall)
      exact Int.abs_lt_one_iff.1 (by exact_mod_cast hlt)
    rw [hzero, Int.cast_zero, zero_sub, abs_neg, abs_zero]
    exact ⟨by nlinarith, by positivity⟩
  · have herr := abs_scaledValue_sub_le hs (leastNormal_le.trans (le_trans (by norm_num) hlarge))
    have htri := abs_sub_le (t.toInt : ℚ) (scaledValue mode fval) (real fval * 1000)
    have htri' := abs_sub_abs_le_abs_sub (scaledValue mode fval) (real fval * 1000)
    exact ⟨by linarith, by linarith⟩

/-! ### Round trips -/

/-- Neighbouring quotients are 1/1000 apart, and each result is within 2^-22 of its own. -/
theorem real_scaleDecode_lt {m n : S32} (h : m.toInt < n.toInt) : real (scaleDecode m) < real (scaleDecode n) := by
  have hstep : (m.toInt : ℚ) + 1 ≤ n.toInt := by exact_mod_cast h
  have hnear (k : S32) : |real (scaleDecode k) - (k.toInt : ℚ) / 1000| ≤ 1 / 4000 := by
    have hk : |(k.toInt : ℚ)| ≤ 2 ^ 31 := by
      have := toInt_range k
      exact_mod_cast abs_le.2 (by omega : -2 ^ 31 ≤ k.toInt ∧ k.toInt ≤ 2 ^ 31)
    refine (abs_real_scaleDecode_sub_le k).trans ?_
    rw [abs_div, abs_of_pos (by norm_num : (0 : ℚ) < 1000), roundingError]
    linarith
  have hm := abs_le.1 (hnear m)
  have hn := abs_le.1 (hnear n)
  linarith [hm.2, hn.1]

theorem real_scaleDecode_lt_iff {m n : S32} : real (scaleDecode m) < real (scaleDecode n) ↔ m.toInt < n.toInt :=
  ⟨fun h => not_le.1 fun hle => h.not_ge (real_scaleDecode_mono hle), real_scaleDecode_lt⟩

theorem real_scaleDecode_zero : real (scaleDecode 0) = 0 := by
  have h : (0 : S32).toInt = 0 := BitVec.toInt_zero
  rw [real_scaleDecode_of_dvd (h ▸ dvd_zero 1000), h, Int.cast_zero, zero_div]

/-- Settles O14: the order of results is the order of operands, compared with each other, with 0 and with the ends. -/
theorem scaleDecStrictlyIncreasing : Obligations.ScaleDecStrictlyIncreasing := by
  intro m n
  obtain ⟨-, -, -, hmax, hmin⟩ := scaleDecCompletes
  have hrange := toInt_range m
  rw [← hmax, ← hmin, ← real_scaleDecode_zero]
  refine ⟨real_scaleDecode_lt, real_scaleDecode_mono ?_, real_scaleDecode_mono ?_, real_scaleDecode_lt_iff,
    real_scaleDecode_lt_iff⟩
  · exact hrange.1
  · exact Int.le_of_lt_add_one hrange.2

/-- R127: the truncation costs less than 0.001, and the two roundings at most 2^-51 of the operand together. -/
theorem abs_roundTrip_sub_lt {mode : ScaleProduct} {fval : F64} {t : S32} (h : scaleEncode mode fval = .ok t) :
    |real (scaleDecode t) - real fval| < 1 / 1000 + |real fval| / 2 ^ 51 := by
  obtain ⟨hsub, hle⟩ := toInt_of_scaleEncode_ok h
  have hdec := abs_real_scaleDecode_sub_le t
  have hf := abs_nonneg (real fval)
  rw [abs_mul, abs_of_pos (by norm_num : (0 : ℚ) < 1000)] at hsub hle
  rw [abs_div, abs_of_pos (by norm_num : (0 : ℚ) < 1000)] at hdec
  have htrunc : |(t.toInt : ℚ) / 1000 - real fval| = |(t.toInt : ℚ) - real fval * 1000| / 1000 := by
    rw [div_sub' (by norm_num), abs_div, abs_of_pos (by norm_num : (0 : ℚ) < 1000), mul_comm]
  have htri := abs_sub_le (real (scaleDecode t)) ((t.toInt : ℚ) / 1000) (real fval)
  rw [roundingError] at hsub hle hdec
  linarith

/-- An operand whose product by 1000 is an integer has that integer as its scaled value in either mode (R123). -/
theorem scaledValue_of_integer {mode : ScaleProduct} {fval : F64} {n : Int} (hfin : isFinite fval = true)
    (hn : |n| ≤ 2 ^ 53) (h : real fval * 1000 = n) : Scalable mode fval ∧ scaledValue mode fval = n := by
  have hn' : |real fval * 1000| ≤ 2 ^ 53 := by rw [h]; exact_mod_cast hn
  refine ⟨scalable_of_abs_le hfin hn', ?_⟩
  cases mode with
  | binary64Rne =>
    obtain ⟨hlow, hhigh⟩ := abs_le.1 hn
    obtain ⟨hnfin, hnreal⟩ := toF64Exact n hlow hhigh
    have hround := fmul64_scaleF64_roundsTo hfin hn'
    rw [h] at hround
    exact hround.real_eq_of_representable hnfin hnreal
  | exactReal => exact h

/-- R127's exact case: the scaled value is the integer, and its quotient by 1000 is the operand, a binary64 value. -/
theorem roundTrip_of_integer {mode : ScaleProduct} {fval : F64} {t : S32} (h : scaleEncode mode fval = .ok t)
    {n : Int} (hn : real fval * 1000 = n) : real (scaleDecode t) = real fval := by
  obtain ⟨hs, ht⟩ := scaleEncode_eq_ok_iff.1 h
  have hbound : |n| ≤ 2 ^ 53 := by
    obtain ⟨hsub, -⟩ := toInt_of_scaleEncode_ok h
    have hrange := toInt_range t
    have htabs : |(t.toInt : ℚ)| ≤ 2 ^ 31 := by
      exact_mod_cast abs_le.2 (by omega : -2 ^ 31 ≤ t.toInt ∧ t.toInt ≤ 2 ^ 31)
    rw [hn, abs_sub_comm, roundingError] at hsub
    have htri := abs_sub_abs_le_abs_sub (n : ℚ) t.toInt
    have hq : |(n : ℚ)| ≤ 2 ^ 53 := by linarith
    exact_mod_cast hq
  rw [(scaledValue_of_integer hs.1 hbound hn).2, truncReal_intCast] at ht
  have hquot : (t.toInt : ℚ) / 1000 = real fval := by rw [← ht, ← hn, mul_div_cancel_right₀ _ (by norm_num)]
  exact ((scaleDecode_roundsTo t).real_eq_of_representable hs.1 hquot.symm).trans hquot

theorem trunc0_neg_iff {neg : Bool} {n d : Nat} (h : trunc0 neg n d ≠ 0) : trunc0 neg n d < 0 ↔ neg = true := by
  have hq : (0 : Int) ≤ (n / d : Nat) := Int.natCast_nonneg _
  cases neg with
  | false => exact iff_of_false hq.not_gt nofun
  | true => exact iff_of_true (neg_neg_of_pos (hq.lt_of_ne' (neg_ne_zero.1 h))) rfl

theorem signBit_fmul64_scaleF64 (fval : F64) : signBit (fmul64 fval scaleF64) = signBit fval := by
  rw [fmul64, signBit_packF64, show signBit scaleF64 = false by decide, Bool.xor_false]

/-- A nonzero result has the sign of the product, which is the operand's. -/
theorem roundTrip_sign {fval : F64} {t : S32} (h : scaleEncode .binary64Rne fval = .ok t) :
    real (scaleDecode t) = 0 ∨ signBit (scaleDecode t) = signBit fval := by
  obtain ⟨-, ht⟩ := scaleEncode_eq_ok_iff.1 h
  rw [scaledValue_binary64Rne, truncReal_real, signBit_fmul64_scaleF64] at ht
  refine or_iff_not_imp_left.2 fun hne => ?_
  have hne' : t.toInt ≠ 0 := fun h0 => hne <| by
    obtain rfl : t = 0 := BitVec.eq_of_toInt_eq (h0.trans BitVec.toInt_zero.symm)
    exact real_scaleDecode_zero
  rw [signBit_scaleDecode, Bool.eq_iff_iff, decide_eq_true_eq, ← ht]
  exact trunc0_neg_iff (ht ▸ hne')

/-- Settles O15: the bound, the sign and the exact case, each of which has its lemma. -/
theorem roundTripBound : Obligations.RoundTripBound := by
  intro mode fval t h
  refine ⟨abs_roundTrip_sub_lt h, ?_⟩
  rintro rfl
  exact ⟨roundTrip_sign h, fun ⟨_, hn⟩ => roundTrip_of_integer h hn⟩

/-- Settles O16: a multiple of 1000 decodes to its exact quotient, whose product by 1000 is the integer again. -/
theorem multiplesOf1000RoundTrip : Obligations.MultiplesOf1000RoundTrip := by
  refine ⟨fun mode n hdvd => ?_, by decide +kernel, by decide +kernel, by decide +kernel⟩
  have hrange := toInt_range n
  have hint : real (scaleDecode n) * 1000 = n.toInt := by
    rw [real_scaleDecode_of_dvd hdvd, div_mul_cancel₀ _ (by norm_num)]
  obtain ⟨hs, hval⟩ := scaledValue_of_integer (mode := mode) (scaleDecode_roundsTo n).1 (abs_le.2 (by omega)) hint
  exact scaleEncode_eq_ok_iff.2 ⟨hs, by rw [hval, truncReal_intCast]⟩

/-- Twice the midpoint between an s32 and its neighbour away from 0: the middle of the interval of R124. -/
def doubledMidpoint (n : S32) : Int :=
  if 0 ≤ n.toInt then 2 * n.toInt + 1 else 2 * n.toInt - 1

theorem doubledMidpoint_bounds (n : S32) : 1 ≤ |doubledMidpoint n| ∧ |doubledMidpoint n| ≤ 2 ^ 33 := by
  have := toInt_range n
  unfold doubledMidpoint
  split_ifs with hn
  · rw [abs_of_nonneg] <;> omega
  · rw [abs_of_neg] <;> omega

/-- A scaled value within 1/2 of the midpoint truncates to n. -/
theorem scaleEncode_of_near_midpoint {mode : ScaleProduct} {fval : F64} {n : S32} (hs : Scalable mode fval)
    (h : |scaledValue mode fval - (doubledMidpoint n : ℚ) / 2| < 1 / 2) : scaleEncode mode fval = .ok n := by
  refine scaleEncode_eq_ok_iff.2 ⟨hs, truncReal_eq_of_mem ?_⟩
  obtain ⟨hlow, hhigh⟩ := abs_lt.1 h
  unfold doubledMidpoint at hlow hhigh
  split_ifs at hlow hhigh with hn <;> push_cast at hlow hhigh
  · exact .inl ⟨hn, by linarith, by linarith⟩
  · exact .inr ⟨(not_le.1 hn).le, by linarith, by linarith⟩

/-- An operand within one rounding of the midpoint over 1000 scales back to within 1/2 of the midpoint. -/
theorem scaleEncode_of_near_quotient (mode : ScaleProduct) {fval : F64} {n : S32} (hfin : isFinite fval = true)
    (h : |real fval - (doubledMidpoint n : ℚ) / 2000| ≤ |(doubledMidpoint n : ℚ) / 2000| * roundingError) :
    scaleEncode mode fval = .ok n := by
  obtain ⟨hlow, hhigh⟩ := doubledMidpoint_bounds n
  have hlow' : (1 : ℚ) ≤ |(doubledMidpoint n : ℚ)| := by exact_mod_cast hlow
  have hhigh' : |(doubledMidpoint n : ℚ)| ≤ 2 ^ 33 := by exact_mod_cast hhigh
  have hprod : |real fval * 1000 - (doubledMidpoint n : ℚ) / 2| ≤ |(doubledMidpoint n : ℚ)| * roundingError / 2 := by
    rw [abs_div, abs_of_pos (by norm_num : (0 : ℚ) < 2000)] at h
    have hscale : real fval * 1000 - (doubledMidpoint n : ℚ) / 2 =
        (real fval - (doubledMidpoint n : ℚ) / 2000) * 1000 := by ring
    rw [hscale, abs_mul, abs_of_pos (by norm_num : (0 : ℚ) < 1000)]
    linarith
  have hmid : |(doubledMidpoint n : ℚ) / 2| = |(doubledMidpoint n : ℚ)| / 2 := by rw [abs_div, abs_two]
  have hupper := abs_sub_abs_le_abs_sub (real fval * 1000) ((doubledMidpoint n : ℚ) / 2)
  have hlower := abs_sub_abs_le_abs_sub ((doubledMidpoint n : ℚ) / 2) (real fval * 1000)
  rw [abs_sub_comm] at hlower
  rw [hmid] at hupper hlower
  have hs : Scalable mode fval := scalable_of_abs_le hfin (by rw [roundingError] at hprod; linarith)
  have hscaled := abs_scaledValue_sub_le hs (leastNormal_le.trans (by rw [roundingError] at hprod; linarith))
  have htri := abs_sub_le (scaledValue mode fval) (real fval * 1000) ((doubledMidpoint n : ℚ) / 2)
  rw [roundingError] at hprod hscaled
  exact scaleEncode_of_near_midpoint hs (by linarith)

/-- Settles O17: the operand is the binary64 nearest to the midpoint over 1000. -/
theorem everyFixedPointValueReachable : Obligations.EveryFixedPointValueReachable := by
  intro mode n
  obtain ⟨-, hhigh⟩ := doubledMidpoint_bounds n
  obtain ⟨hfin, hnear⟩ := fdiv64_toF64_near (c := doubledMidpoint n) (d := 2000) (by omega) (by decide) (by decide)
  exact ⟨_, scaleEncode_of_near_quotient mode hfin (by exact_mod_cast hnear)⟩

end Sys2Proof.Machine
end

section
/-! Frames of ENCODE under DECODE (42_packet_encoder.md R142, R143; 43_packet_decoder.md R163; 30_encoding.md R75).
DECODE answers the frame's packet exactly on the valid frames (`decodeFrame_eq_ok_iff`), and the packet of a built frame
holds what the frame was built from (`decodeFrame_buildFrame`). -/
namespace Sys2Proof.Machine

/-- The definition of R69, check by check. -/
theorem validFrame_iff {b : List Byte} :
    validFrame b = true ↔
      b.length = 9 ∧ byteAt b 0 = Config.sof ∧ byteAt b 8 = Config.eof ∧ crc8 (slice b 1 6) = byteAt b 7 := by
  simp only [validFrame, Bool.and_eq_true, beq_iff_eq, and_assoc, eq_comm (a := byteAt b 7)]

theorem decodeFrame_eq_ok_iff {buf : List Byte} {p : Packet} :
    decodeFrame buf = .ok p ↔ validFrame buf = true ∧ p = framePacket buf := by
  constructor
  · intro h
    unfold decodeFrame at h
    split_ifs at h with hlen hmarkers hcrc
    obtain ⟨hsof, heof⟩ := not_or.1 hmarkers
    cases h
    exact ⟨validFrame_iff.2 ⟨not_not.1 hlen, not_not.1 hsof, not_not.1 heof, not_not.1 hcrc⟩, rfl⟩
  · rintro ⟨hvalid, rfl⟩
    obtain ⟨hlen, hsof, heof, hcrc⟩ := validFrame_iff.1 hvalid
    exact decodeFrame_eq_framePacket hlen hsof heof hcrc

/-- Settles O23: a valid frame decodes to its packet, and whatever else DECODE answers is one of its two errors. -/
theorem decodeAcceptsExactlyValidFrames : Obligations.DecodeAcceptsExactlyValidFrames := by
  refine fun buf => ⟨fun hvalid => ⟨_, decodeFrame_eq_ok_iff.2 ⟨hvalid, rfl⟩⟩, fun hinvalid => ?_⟩
  cases hdec : decodeFrame buf with
  | ok p => exact absurd (decodeFrame_eq_ok_iff.1 hdec).1 (Bool.not_eq_true _ ▸ hinvalid)
  | error e => exact (decodeFrame_error hdec).imp (congrArg _) (congrArg _)

theorem byteAt_eq_iff {d : List Byte} {i : Nat} (h : i < d.length) (b : Byte) : d[i]? = some b ↔ byteAt d i = b := by
  rw [byteAt, List.getD_eq_getElem _ _ h, List.getElem?_eq_getElem h, Option.some_inj]

/-- Settles O31: on a window the length and the first marker are right, which leaves byte 8 and then the CRC to fail. -/
theorem windowErrors : Obligations.WindowErrors := by
  intro w hlen hsof
  rw [byteAt_eq_iff (by omega)] at hsof
  rw [ne_eq, ne_eq, byteAt_eq_iff (by omega), byteAt_eq_iff (by omega)]
  by_cases heof : byteAt w 8 = Config.eof
  · by_cases hcrc : crc8 (slice w 1 6) = byteAt w 7
    · rw [decodeFrame_eq_framePacket hlen hsof heof hcrc]
      exact ⟨⟨nofun, fun h => absurd heof h⟩, ⟨nofun, fun h => absurd hcrc.symm h.2⟩⟩
    · have hmarkers : ¬ (byteAt w 0 ≠ Config.sof ∨ byteAt w 8 ≠ Config.eof) := fun h => h.elim (· hsof) (· heof)
      rw [decodeFrame_of_crc_ne hlen hmarkers hcrc]
      exact ⟨⟨nofun, fun h => absurd heof h⟩, ⟨fun _ => ⟨heof, Ne.symm hcrc⟩, fun _ => rfl⟩⟩
  · rw [decodeFrame_of_marker_ne (.inr heof)]
    exact ⟨⟨fun _ => heof, fun _ => rfl⟩, ⟨nofun, fun h => absurd h.1 heof⟩⟩

theorem validFrame_buildFrame (cmd : Byte) (fx : S32) (flags : Byte) : validFrame (buildFrame cmd fx flags) = true :=
  validFrame_iff.2 ⟨rfl, rfl, rfl, rfl⟩

theorem flagOf_flagsByte (flag : Bool) : flagOf (flagsByte flag) = flag := by
  cases flag with
  | false => rfl
  | true => rfl

theorem framePacket_buildFrame (cmd : Byte) (fx : S32) (flag : Bool) :
    framePacket (buildFrame cmd fx (flagsByte flag)) =
      { cmd := cmd, value := scaleDecode fx, valueFx := fx, flag := flag } := by
  calc framePacket (buildFrame cmd fx (flagsByte flag))
    _ = { cmd := cmd, value := scaleDecode (int32Le (leBytes32 fx)), valueFx := int32Le (leBytes32 fx),
          flag := flagOf (flagsByte flag) } := rfl
    _ = _ := by rw [int32Le_leBytes32, flagOf_flagsByte]

/-- DECODE gives back what a frame was built from, and the value that its fixed-point value stands for (R163). -/
theorem decodeFrame_buildFrame (cmd : Byte) (fx : S32) (flag : Bool) :
    decodeFrame (buildFrame cmd fx (flagsByte flag)) =
      .ok { cmd := cmd, value := scaleDecode fx, valueFx := fx, flag := flag } :=
  decodeFrame_eq_ok_iff.2 ⟨validFrame_buildFrame _ _ _, (framePacket_buildFrame cmd fx flag).symm⟩

/-- Settles O24: the frame is built from SCALE_ENC's value, which DECODE reads back; its SCALE_DEC is R127's. -/
theorem decodeOfEncode : Obligations.DecodeOfEncode := by
  intro mode cmd fval flag f h
  obtain ⟨fx, hfx, rfl⟩ := encodeFrame_ok h
  exact ⟨fx, hfx, decodeFrame_buildFrame cmd fx flag, abs_roundTrip_sub_lt hfx,
    fun ⟨_, hn⟩ => roundTrip_of_integer hfx hn⟩

/-- Settles O20: equal frames decode to one packet, which holds cmd, the fixed-point value and the flag. -/
theorem encodeInjective : Obligations.EncodeInjective := by
  intro mode c c' v v' g g' f f' h h'
  obtain ⟨fx, hfx, rfl⟩ := encodeFrame_ok h
  obtain ⟨fx', hfx', rfl⟩ := encodeFrame_ok h'
  rw [hfx, hfx', Except.ok.injEq]
  constructor
  · intro heq
    have hpackets := congrArg framePacket heq
    rw [framePacket_buildFrame, framePacket_buildFrame] at hpackets
    obtain ⟨hcmd, -, hvalue, hflag⟩ := Packet.mk.inj hpackets
    exact ⟨hcmd, hvalue, hflag⟩
  · rintro ⟨rfl, rfl, rfl⟩
    rfl

/-- Settles O19: the frame is built by `buildFrame`, whose bytes stand in place whatever the operands are. -/
theorem encodedFrameIsValid : Obligations.EncodedFrameIsValid := by
  intro s t cmd fval flag f hexec hout
  obtain ⟨fx, -, rfl⟩ := encodeFrame_ok (encodeFrame_of_exec hexec hout)
  refine ⟨rfl, rfl, rfl, ?_, rfl, validFrame_buildFrame cmd fx _⟩
  cases flag with
  | false => exact .inl rfl
  | true => exact .inr rfl

end Sys2Proof.Machine
end

section
/-! SERVICE over a whole buffer (44_reframer.md R181 to R189), by induction on its passes (`service_induction`): what it
leaves and delivers, and that it may stop before bytes that have not arrived yet (`service_append`). -/
namespace Sys2Proof.Machine

/-- Induction along SERVICE's loop: a pass waits, or goes on behind the bytes it delivered or discarded. -/
theorem service_induction {motive : List Byte → Prop}
    (waits : ∀ rbuf, (scan rbuf).length < 9 → service rbuf = (scan rbuf, []) → motive rbuf)
    (delivers : ∀ rbuf p, 9 ≤ (scan rbuf).length → decodeFrame ((scan rbuf).take 9) = .ok p →
      service rbuf = ((service ((scan rbuf).drop 9)).1, p :: (service ((scan rbuf).drop 9)).2) →
      motive ((scan rbuf).drop 9) → motive rbuf)
    (discards : ∀ rbuf e, 9 ≤ (scan rbuf).length → decodeFrame ((scan rbuf).take 9) = .error e →
      service rbuf = service ((scan rbuf).drop 1) → motive ((scan rbuf).drop 1) → motive rbuf)
    (rbuf : List Byte) : motive rbuf := by
  rcases Nat.lt_or_ge (scan rbuf).length 9 with hshort | hlong
  · exact waits rbuf hshort (service_of_short hshort)
  · have hscan := scan_length_le rbuf
    cases hdec : decodeFrame ((scan rbuf).take 9) with
    | ok p =>
      exact delivers rbuf p hlong hdec (service_of_ok hlong hdec)
        (service_induction waits delivers discards ((scan rbuf).drop 9))
    | error e =>
      exact discards rbuf e hlong hdec (service_of_error hlong hdec)
        (service_induction waits delivers discards ((scan rbuf).drop 1))
termination_by rbuf.length
decreasing_by all_goals rw [List.length_drop]; omega

/-! ### What SERVICE leaves and delivers -/

theorem scan_suffix (rbuf : List Byte) : scan rbuf <:+ rbuf := by
  obtain ⟨dropped, h, -⟩ := scan_spec rbuf
  exact ⟨dropped, h.symm⟩

theorem service_waits (rbuf : List Byte) :
    (service rbuf).1.length < 9 ∧ ((service rbuf).1 = [] ∨ (service rbuf).1.head? = some Config.sof) := by
  induction rbuf using service_induction with
  | waits rbuf hshort heq =>
    obtain ⟨-, -, hhead⟩ := scan_spec rbuf
    rw [heq]
    exact ⟨hshort, hhead⟩
  | delivers rbuf p hlong hdec heq ih => rwa [heq]
  | discards rbuf e hlong hdec heq ih => rwa [heq]

theorem service_suffix (rbuf : List Byte) : (service rbuf).1 <:+ rbuf := by
  induction rbuf using service_induction with
  | waits rbuf hshort heq => rw [heq]; exact scan_suffix rbuf
  | delivers rbuf p hlong hdec heq ih => rw [heq]; exact (ih.trans (List.drop_suffix ..)).trans (scan_suffix rbuf)
  | discards rbuf e hlong hdec heq ih => rw [heq]; exact (ih.trans (List.drop_suffix ..)).trans (scan_suffix rbuf)

theorem service_delivers_length_le (rbuf : List Byte) : (service rbuf).2.length ≤ rbuf.length / 9 := by
  induction rbuf using service_induction with
  | waits rbuf hshort heq => rw [heq]; exact Nat.zero_le _
  | delivers rbuf p hlong hdec heq ih =>
    have hscan := scan_length_le rbuf
    rw [List.length_drop] at ih
    rw [heq, List.length_cons]
    omega
  | discards rbuf e hlong hdec heq ih =>
    have hscan := scan_length_le rbuf
    rw [List.length_drop] at ih
    rw [heq]
    omega

/-- Every delivered packet is the packet of some frame (R182). -/
theorem exists_frame_of_mem_service {rbuf : List Byte} {q : Packet} (h : q ∈ (service rbuf).2) :
    ∃ f, decodeFrame f = .ok q := by
  induction rbuf using service_induction with
  | waits rbuf hshort heq => rw [heq] at h; cases h
  | delivers rbuf p hlong hdec heq ih =>
    rw [heq, List.mem_cons] at h
    rcases h with rfl | h
    · exact ⟨_, hdec⟩
    · exact ih h
  | discards rbuf e hlong hdec heq ih => exact ih (heq ▸ h)

/-- Settles O28: each pass keeps a suffix, uses 9 bytes for a delivery, and the last one waits. -/
theorem serviceEndsWaiting : Obligations.ServiceEndsWaiting := by
  intro rbuf
  obtain ⟨hlen, hhead⟩ := service_waits rbuf
  obtain ⟨dropped, hdropped⟩ := service_suffix rbuf
  exact ⟨hlen, hhead, ⟨dropped, hdropped.symm⟩, service_delivers_length_le rbuf⟩

/-! ### SERVICE and bytes that arrive later -/

theorem scan_append_of_ne_nil {a : List Byte} (h : scan a ≠ []) (b : List Byte) : scan (a ++ b) = scan a ++ b := by
  induction a with
  | nil => exact absurd rfl h
  | cons x a ih =>
    by_cases hx : x = Config.sof
    · subst hx
      rw [List.cons_append, scan_sof, scan_sof, List.cons_append]
    · rw [scan_cons_of_ne a hx] at h
      rw [List.cons_append, scan_cons_of_ne _ hx, scan_cons_of_ne _ hx, ih h]

theorem scan_scan_append (a b : List Byte) : scan (scan a ++ b) = scan (a ++ b) := by
  induction a with
  | nil => rfl
  | cons x a ih =>
    by_cases hx : x = Config.sof
    · subst hx
      rw [scan_sof]
    · rw [scan_cons_of_ne a hx, List.cons_append, scan_cons_of_ne _ hx, ih]

/-- SERVICE scans first, so it sees nothing of a buffer but what the scan leaves. -/
theorem service_congr {a b : List Byte} (h : scan a = scan b) : service a = service b := by
  rw [(serviceFollowsItsLoop a).2, (serviceFollowsItsLoop b).2, h]

/-- A full window of a buffer is the window of every longer one. -/
theorem window_append {a : List Byte} (hlong : 9 ≤ (scan a).length) (b : List Byte) :
    scan (a ++ b) = scan a ++ b ∧ 9 ≤ (scan (a ++ b)).length ∧ (scan (a ++ b)).take 9 = (scan a).take 9 := by
  have hscan : scan (a ++ b) = scan a ++ b := scan_append_of_ne_nil (List.ne_nil_of_length_pos (by omega)) b
  rw [hscan, List.length_append]
  exact ⟨rfl, by omega, List.take_append_of_le_length hlong⟩

/-- SERVICE of a longer buffer is SERVICE of what it leaves of the first part, with the rest appended: the windows of
the first part are decided by its own bytes (R181). -/
theorem service_append (a b : List Byte) :
    service (a ++ b) =
      ((service ((service a).1 ++ b)).1, (service a).2 ++ (service ((service a).1 ++ b)).2) := by
  induction a using service_induction with
  | waits a hshort heq => rw [heq, ← service_congr (scan_scan_append a b)]; rfl
  | delivers a p hlong hdec heq ih =>
    obtain ⟨hscan, hlong', hwindow⟩ := window_append hlong b
    rw [service_of_ok hlong' (hwindow ▸ hdec), hscan, List.drop_append_of_le_length hlong, ih, heq, List.cons_append]
  | discards a e hlong hdec heq ih =>
    obtain ⟨hscan, hlong', hwindow⟩ := window_append hlong b
    rw [service_of_error hlong' (hwindow ▸ hdec), hscan, List.drop_append_of_le_length (by omega), ih, heq]

theorem receiveByte_eq (c : Channel) (b : Byte) :
    receiveByte c b =
      { c with rbuf := (service (c.rbuf ++ [b])).1, delivered := c.delivered ++ (service (c.rbuf ++ [b])).2 } := rfl

theorem receiveBytes_concat (c : Channel) (bs : List Byte) (b : Byte) :
    receiveBytes c (bs ++ [b]) = receiveByte (receiveBytes c bs) b :=
  List.foldl_concat ..

/-- Settles O29: one more byte is one more SERVICE of what the last one left, which is SERVICE of the whole batch. -/
theorem batchReceiveEqualsBytewise : Obligations.BatchReceiveEqualsBytewise := by
  intro c bs
  induction bs using List.reverseRecOn with
  | nil => exact fun h => absurd rfl h
  | append_singleton bs b ih =>
    intro _
    rw [receiveBytes_concat]
    rcases eq_or_ne bs [] with rfl | hbs
    · rfl
    · rw [ih hbs, receiveByte_eq, ← List.append_assoc, service_append (c.rbuf ++ bs) [b], List.append_assoc]

/-! ### A perfect transport -/

theorem scan_validFrame_append {f : List Byte} (h : validFrame f = true) (rest : List Byte) :
    scan (f ++ rest) = f ++ rest := by
  obtain ⟨hlen, hsof, -⟩ := validFrame_iff.1 h
  cases f with
  | nil => cases hlen
  | cons b f => cases hsof; exact scan_sof _

/-- A valid frame at the front is delivered, and SERVICE goes on behind it. -/
theorem service_validFrame_append {f : List Byte} (h : validFrame f = true) (rest : List Byte) :
    service (f ++ rest) = ((service rest).1, framePacket f :: (service rest).2) := by
  have hlen : f.length = 9 := (validFrame_iff.1 h).1
  have hscan := scan_validFrame_append h rest
  have hlong : 9 ≤ (scan (f ++ rest)).length := by rw [hscan, List.length_append]; omega
  have hdec : decodeFrame ((scan (f ++ rest)).take 9) = .ok (framePacket f) := by
    rw [hscan, ← hlen, List.take_left]
    exact decodeFrame_eq_ok_iff.2 ⟨h, rfl⟩
  rw [service_of_ok hlong hdec, hscan, ← hlen, List.drop_left]

theorem service_flatten {fs : List (List Byte)} (h : ∀ f ∈ fs, validFrame f = true) :
    service fs.flatten = ([], fs.map framePacket) := by
  induction fs with
  | nil => rfl
  | cons f fs ih =>
    obtain ⟨hf, hfs⟩ := List.forall_mem_cons.1 h
    rw [List.flatten_cons, service_validFrame_append hf, ih hfs, List.map_cons]

/-- Settles O30: ENCODE's frames are valid, so SERVICE of their bytes in one batch delivers each frame's packet. -/
theorem perfectTransportDeliversEveryFrame : Obligations.PerfectTransportDeliversEveryFrame := by
  intro mode fs c hfs hempty
  have hvalid : ∀ f ∈ fs, validFrame f = true := fun f hf => by
    obtain ⟨cmd, fval, flag, hframe⟩ := hfs f hf
    obtain ⟨fx, -, rfl⟩ := encodeFrame_ok hframe
    exact validFrame_buildFrame _ _ _
  refine ⟨fs.map framePacket, ?_, ?_⟩
  · rw [List.forall₂_map_right_iff, List.forall₂_same]
    exact fun f hf => decodeFrame_eq_ok_iff.2 ⟨hvalid f hf, rfl⟩
  · have hservice := service_flatten hvalid
    rcases eq_or_ne fs.flatten [] with hnil | hne
    · rw [hnil] at hservice ⊢
      obtain ⟨-, hps⟩ := Prod.mk.inj hservice
      rw [← hps, List.append_nil]
      rfl
    · rw [batchReceiveEqualsBytewise c _ hne, hempty, List.nil_append, hservice, ← hempty]

end Sys2Proof.Machine
end

section
/-! CRC8 as a linear map (40_crc8_engine.md R103 to R109). Each step is linear over XOR and loses nothing
(`crcBitStep_xor`, `crcBitStep_injective`); the CRC of a changed sequence then differs by the CRC of the change. -/
namespace Sys2Proof.Machine

/-! ### The steps of the register -/

/-- R100 as a sum: the shift, and the polynomial where bit 7 was set. -/
theorem crcBitStep_eq_xor (c : Byte) : crcBitStep c = c <<< 1 ^^^ if c.getLsbD 7 then Config.crcPoly else 0 := by
  unfold crcBitStep
  split_ifs
  · rfl
  · exact BitVec.xor_zero.symm

theorem crcBitStep_xor (a b : Byte) : crcBitStep (a ^^^ b) = crcBitStep a ^^^ crcBitStep b := by
  have hpoly : (if (a ^^^ b).getLsbD 7 then Config.crcPoly else 0) =
      (if a.getLsbD 7 then Config.crcPoly else 0) ^^^ (if b.getLsbD 7 then Config.crcPoly else 0) := by
    rw [BitVec.getLsbD_xor]
    cases a.getLsbD 7 <;> cases b.getLsbD 7 <;> decide
  rw [crcBitStep_eq_xor, crcBitStep_eq_xor, crcBitStep_eq_xor, BitVec.shiftLeft_xor_distrib, hpoly]
  ac_rfl

theorem crcBitStep_iterate_xor (n : Nat) (a b : Byte) :
    crcBitStep^[n] (a ^^^ b) = crcBitStep^[n] a ^^^ crcBitStep^[n] b := by
  induction n with
  | zero => rfl
  | succ n ih => rw [Function.iterate_succ_apply', Function.iterate_succ_apply', Function.iterate_succ_apply', ih,
      crcBitStep_xor]

theorem crcByteStep_xor (a b x y : Byte) : crcByteStep (a ^^^ b) (x ^^^ y) = crcByteStep a x ^^^ crcByteStep b y := by
  unfold crcByteStep
  rw [← crcBitStep_iterate_xor]
  congr 1
  ac_rfl

/-- Bit 0 of the polynomial is set, so the bit that is shifted out stays readable in bit 0. -/
theorem eq_zero_of_crcBitStep_eq_zero : ∀ c : Byte, crcBitStep c = 0 → c = 0 := by
  decide

theorem crcBitStep_injective : Function.Injective crcBitStep := by
  intro a b h
  exact BitVec.xor_eq_zero_iff.1 (eq_zero_of_crcBitStep_eq_zero _ (by rw [crcBitStep_xor, h, BitVec.xor_self]; rfl))

theorem crcByteStep_self (c : Byte) : crcByteStep c c = 0 := by
  rw [crcByteStep, BitVec.xor_self]
  rfl

/-- The register returns to zero exactly on the byte that it holds. -/
theorem crcByteStep_eq_zero_iff {c b : Byte} : crcByteStep c b = 0 ↔ c = b := by
  rw [← crcByteStep_self 0, crcByteStep, crcByteStep, (crcBitStep_injective.iterate 8).eq_iff, BitVec.xor_self,
    BitVec.xor_eq_zero_iff]

/-- Settles O2: the register starts at zero, so the first byte step absorbs its byte unchanged. -/
theorem crcByteStepIsTableLookup : Obligations.CrcByteStepIsTableLookup := by
  intro c b
  rw [crc8, List.foldl_cons, List.foldl_nil, crcByteStep, crcByteStep]
  exact congrArg crcBitStep^[8] BitVec.zero_xor.symm

/-- Linearity at every start of the two registers. -/
theorem foldl_crcByteStep_xor {d e : List Byte} (h : d.length = e.length) (a b : Byte) :
    (xorBytes d e).foldl crcByteStep (a ^^^ b) = d.foldl crcByteStep a ^^^ e.foldl crcByteStep b := by
  induction d generalizing e a b with
  | nil => rw [List.eq_nil_of_length_eq_zero h.symm]; rfl
  | cons x d ih =>
    obtain ⟨y, e, rfl⟩ := List.exists_cons_of_length_eq_add_one h.symm
    rw [xorBytes, List.zipWith_cons_cons, List.foldl_cons, List.foldl_cons, List.foldl_cons, crcByteStep_xor]
    exact ih (Nat.succ.inj h) _ _

/-- Settles O3: the register starts at zero, the XOR of two zeros. -/
theorem crc8Linear : Obligations.Crc8Linear :=
  fun _ _ h => foldl_crcByteStep_xor h 0 0

theorem byteAt_drop (d : List Byte) (k i : Nat) : byteAt (d.drop k) i = byteAt d (k + i) := by
  rw [byteAt, byteAt, List.getD_eq_getElem?_getD, List.getD_eq_getElem?_getD, List.getElem?_drop]

theorem crc8_slice_seven {buf : List Byte} (h : buf.length = 9) :
    crc8 (slice buf 1 7) = crcByteStep (crc8 (slice buf 1 6)) (byteAt buf 7) := by
  have hlen : 6 < (buf.drop 1).length := by rw [List.length_drop]; omega
  rw [slice, crc8_take_succ hlen, byteAt_drop]
  rfl

/-- Settles O4: one more byte gives zero exactly if it is the CRC. -/
theorem crc8Residue : Obligations.Crc8Residue := by
  refine ⟨fun d => ?_, fun buf h => ?_⟩
  · rw [crc8_concat]
    exact crcByteStep_self _
  · rw [crc8_slice_seven h]
    exact crcByteStep_eq_zero_iff.symm

/-- Settles O5: a zero byte leaves a zero register at zero. -/
theorem crc8IgnoresLeadingZeros : Obligations.Crc8IgnoresLeadingZeros := by
  intro n d
  induction n with
  | zero => rfl
  | succ n ih =>
    calc crc8 (List.replicate (n + 1) 0x00 ++ d)
      _ = (List.replicate n 0x00 ++ d).foldl crcByteStep (crcByteStep 0 0) := rfl
      _ = crc8 (List.replicate n 0x00 ++ d) := by rw [crcByteStep_self]; rfl
      _ = crc8 d := ih

/-! ### Flipped bits -/

@[simp] theorem length_flipBit (d : List Byte) (k : Nat) : (flipBit d k).length = d.length :=
  List.length_set

theorem byteAt_flipBit_of_ne {k i : Nat} (h : i ≠ k / 8) (d : List Byte) : byteAt (flipBit d k) i = byteAt d i := by
  rw [byteAt, byteAt, flipBit, List.getD_eq_getElem?_getD, List.getD_eq_getElem?_getD, List.getElem?_set_ne h.symm]

theorem byteAt_flipBit_self {d : List Byte} {k : Nat} (h : k / 8 < d.length) :
    byteAt (flipBit d k) (k / 8) = byteAt d (k / 8) ^^^ 1#8 <<< (k % 8) := by
  rw [byteAt, flipBit, List.getD_eq_getElem?_getD, List.getElem?_set_self h]
  rfl

theorem one_shiftLeft_ne_zero : ∀ i < 8, 1#8 <<< i ≠ 0 := by
  decide

theorem byteAt_flipBit_ne {d : List Byte} {k : Nat} (h : k / 8 < d.length) :
    byteAt (flipBit d k) (k / 8) ≠ byteAt d (k / 8) := by
  rw [byteAt_flipBit_self h]
  intro heq
  rw [← BitVec.xor_eq_zero_iff, BitVec.xor_comm, ← BitVec.xor_assoc, BitVec.xor_self, BitVec.zero_xor] at heq
  exact one_shiftLeft_ne_zero _ (Nat.mod_lt _ (by decide)) heq

/-- A flipped bit is a XOR with the sequence that has this bit alone. -/
theorem flipBit_eq_xorBytes {d : List Byte} {k : Nat} (h : k / 8 < d.length) :
    flipBit d k = xorBytes d (flipBit (List.replicate d.length 0) k) := by
  have hzero : byteAt (List.replicate d.length 0) (k / 8) = 0 := by
    rw [byteAt, List.getD_replicate _ h]
  refine List.ext_getElem (by simp [xorBytes]) fun i hi hi' => ?_
  simp only [flipBit, xorBytes, List.getElem_zipWith, List.getElem_set, List.getElem_replicate, hzero]
  split_ifs with hik
  · subst hik
    rw [byteAt, List.getD_eq_getElem _ _ h]
    exact congrArg (d[k / 8] ^^^ ·) BitVec.zero_xor.symm
  · exact BitVec.xor_zero.symm

theorem crc8_flipBit {d : List Byte} {k : Nat} (h : k / 8 < d.length) :
    crc8 (flipBit d k) = crc8 d ^^^ crc8 (flipBit (List.replicate d.length 0) k) := by
  rw [flipBit_eq_xorBytes h, crc8Linear _ _ (by simp)]

/-! ### The 6-byte span -/

/-- The CRC of the 6-byte sequence that has bit k alone (R109). -/
def syndrome (k : Nat) : Byte :=
  crc8 (flipBit (List.replicate 6 0x00) k)

theorem syndromes_nodup : (0x00 :: (List.range 48).map syndrome).Nodup := by
  decide +kernel

theorem syndrome_ne_zero {k : Nat} (h : k < 48) : syndrome k ≠ 0x00 := by
  intro h0
  exact (List.nodup_cons.1 syndromes_nodup).1 (h0 ▸ List.mem_map_of_mem (List.mem_range.2 h))

theorem syndrome_ne {i j : Nat} (hi : i < 48) (hj : j < 48) (hij : i ≠ j) : syndrome i ≠ syndrome j := by
  intro heq
  have hnodup := (List.nodup_cons.1 syndromes_nodup).2
  exact hij (List.inj_on_of_nodup_map hnodup (List.mem_range.2 hi) (List.mem_range.2 hj) heq)

theorem crc8_flipBit_span {d : List Byte} {k : Nat} (hd : d.length = 6) (hk : k < 48) :
    crc8 (flipBit d k) = crc8 d ^^^ syndrome k := by
  rw [crc8_flipBit (by omega), hd, syndrome]

theorem crc8_flipBit_ne {d : List Byte} {k : Nat} (hd : d.length = 6) (hk : k < 48) : crc8 (flipBit d k) ≠ crc8 d := by
  rw [crc8_flipBit_span hd hk]
  exact fun h => syndrome_ne_zero hk (xor_left_eq_self_iff.1 h)

/-- Two flipped bits change the CRC by two syndromes, which do not cancel. -/
theorem crc8_flipBit_flipBit_ne {d : List Byte} {i j : Nat} (hd : d.length = 6) (hi : i < 48) (hj : j < 48)
    (hij : i ≠ j) : crc8 (flipBit (flipBit d i) j) ≠ crc8 d := by
  rw [crc8_flipBit_span ((length_flipBit d i).trans hd) hj, crc8_flipBit_span hd hi, BitVec.xor_assoc]
  exact fun h => syndrome_ne hi hj hij (BitVec.xor_eq_zero_iff.1 (xor_left_eq_self_iff.1 h))

/-- Settles O6: the syndromes are distinct and nonzero, and a change of the span changes the CRC by its syndromes. -/
theorem crc8DetectsOneAndTwoBitErrors : Obligations.Crc8DetectsOneAndTwoBitErrors :=
  ⟨fun _ _ hi hj => ⟨syndrome_ne_zero hi, syndrome_ne hi hj⟩,
   fun _ _ _ hd hi hj => ⟨crc8_flipBit_ne hd hi, crc8_flipBit_flipBit_ne hd hi hj⟩⟩

end Sys2Proof.Machine
end

section
/-! Flipped bits of a valid frame (43_packet_decoder.md R164): a flip lands in a marker, in the span under the CRC, or
in the CRC itself. -/
namespace Sys2Proof.Machine

variable {f : List Byte} {k : Nat}

theorem slice_flipBit_outside (h : k / 8 < 1 ∨ 7 ≤ k / 8) : slice (flipBit f k) 1 6 = slice f 1 6 := by
  unfold slice flipBit
  rw [List.drop_set]
  split_ifs with hlow
  · rfl
  · rw [List.take_set, List.set_eq_of_length_le]
    rw [List.length_take]
    omega

theorem byteAt_slice_span {i : Nat} (h : i < 6) : byteAt (slice f 1 6) i = byteAt f (1 + i) := by
  rw [← byteAt_drop, slice, byteAt, byteAt, List.getD_eq_getElem?_getD, List.getD_eq_getElem?_getD,
    List.getElem?_take_of_lt h]

theorem slice_flipBit_span (hlow : 8 ≤ k) (hhigh : k < 56) :
    slice (flipBit f k) 1 6 = flipBit (slice f 1 6) (k - 8) := by
  have hbyte : (k - 8) / 8 = k / 8 - 1 := by omega
  have hbit : (k - 8) % 8 = k % 8 := by omega
  rw [flipBit, flipBit, hbyte, hbit, byteAt_slice_span (by omega), Nat.add_sub_of_le (by omega)]
  simp only [slice]
  rw [List.drop_set, if_neg (by omega), List.take_set]

theorem length_slice_span (h : f.length = 9) : (slice f 1 6).length = 6 := by
  rw [slice, List.length_take, List.length_drop]
  omega

section
variable (hvalid : validFrame f = true)
include hvalid

theorem decodeFrame_flipBit_marker (h : k < 8 ∨ (64 ≤ k ∧ k < 72)) :
    decodeFrame (flipBit f k) = .error .framing := by
  obtain ⟨hlen, hsof, heof, -⟩ := validFrame_iff.1 hvalid
  have hne : byteAt (flipBit f k) (k / 8) ≠ byteAt f (k / 8) := byteAt_flipBit_ne (by omega)
  rcases h with h | h
  · rw [show k / 8 = 0 by omega, hsof] at hne
    exact decodeFrame_of_marker_ne (.inl hne)
  · rw [show k / 8 = 8 by omega, heof] at hne
    exact decodeFrame_of_marker_ne (.inr hne)

/-- Nine bytes with the markers of a valid frame but the wrong CRC. -/
theorem decodeFrame_of_markers_kept {g : List Byte} (hlen : g.length = f.length) (hsof : byteAt g 0 = byteAt f 0)
    (heof : byteAt g 8 = byteAt f 8) (hcrc : crc8 (slice g 1 6) ≠ byteAt g 7) :
    decodeFrame g = .error .checksum := by
  obtain ⟨hlen', hsof', heof', -⟩ := validFrame_iff.1 hvalid
  refine decodeFrame_of_crc_ne (hlen.trans hlen') (fun h => ?_) hcrc
  exact h.elim (· (hsof.trans hsof')) (· (heof.trans heof'))

theorem decodeFrame_flipBit_checked (hlow : 8 ≤ k) (hhigh : k < 64) :
    decodeFrame (flipBit f k) = .error .checksum := by
  obtain ⟨hlen, -, -, hcrc⟩ := validFrame_iff.1 hvalid
  refine decodeFrame_of_markers_kept hvalid (length_flipBit f k) (byteAt_flipBit_of_ne (by omega) f)
    (byteAt_flipBit_of_ne (by omega) f) ?_
  rcases Nat.lt_or_ge k 56 with hspan | hcrcByte
  · rw [slice_flipBit_span hlow hspan, byteAt_flipBit_of_ne (by omega), ← hcrc]
    exact crc8_flipBit_ne (length_slice_span hlen) (by omega)
  · have hne : byteAt (flipBit f k) (k / 8) ≠ byteAt f (k / 8) := byteAt_flipBit_ne (by omega)
    rw [show k / 8 = 7 by omega] at hne
    rw [slice_flipBit_outside (.inr (by omega)), hcrc]
    exact hne.symm

theorem decodeFrame_flipBit_flipBit {j : Nat} (hj : 8 ≤ j) (hj' : j < 56) (hk : 8 ≤ k) (hk' : k < 56) (hjk : j ≠ k) :
    decodeFrame (flipBit (flipBit f j) k) = .error .checksum := by
  obtain ⟨hlen, -, -, hcrc⟩ := validFrame_iff.1 hvalid
  have hkept {i : Nat} (hik : i ≠ k / 8) (hij : i ≠ j / 8) : byteAt (flipBit (flipBit f j) k) i = byteAt f i :=
    (byteAt_flipBit_of_ne hik _).trans (byteAt_flipBit_of_ne hij _)
  refine decodeFrame_of_markers_kept hvalid (by simp) (hkept (by omega) (by omega)) (hkept (by omega) (by omega)) ?_
  rw [slice_flipBit_span hk hk', slice_flipBit_span hj hj', hkept (by omega) (by omega), ← hcrc]
  exact crc8_flipBit_flipBit_ne (length_slice_span hlen) (by omega) (by omega) (by omega)

end

/-- Settles O25: a flipped marker fails its check; any other flip keeps the markers and changes one side of the CRC
test. -/
theorem bitFlipsDetected : Obligations.BitFlipsDetected := fun _ hvalid =>
  ⟨fun _ => decodeFrame_flipBit_marker hvalid, fun _ => decodeFrame_flipBit_checked hvalid,
   fun _ _ => decodeFrame_flipBit_flipBit hvalid⟩

end Sys2Proof.Machine
end

section
/-! CRC8 as a polynomial remainder over GF(2) (40_crc8_engine.md R103). One bit step multiplies the register's polynomial
by x and subtracts the generator where the term x^8 appears, so the register stays congruent to the message times x^8. -/
namespace Sys2Proof.Machine

open Polynomial

/-- The generator x^8 + x^2 + x + 1, CRC_POLY with its implicit term. -/
noncomputable def crcGenerator : (ZMod 2)[X] :=
  X ^ 8 + X ^ 2 + X + 1

theorem crcGenerator_monic : crcGenerator.Monic := by
  unfold crcGenerator
  monicity!

theorem degree_crcGenerator : crcGenerator.degree = 8 := by
  unfold crcGenerator
  compute_degree!

theorem bytePoly_degree_lt (b : Byte) : (bytePoly b).degree < 8 := by
  have hmem : bytePoly b ∈ degreeLT (ZMod 2) 8 := by
    refine Submodule.sum_mem _ fun i hi => ?_
    split_ifs
    · rw [mem_degreeLT, degree_X_pow]
      exact_mod_cast Finset.mem_range.1 hi
    · exact Submodule.zero_mem _
  exact mem_degreeLT.1 hmem

theorem bytePoly_xor (a b : Byte) : bytePoly (a ^^^ b) = bytePoly a + bytePoly b := by
  unfold bytePoly
  rw [← Finset.sum_add_distrib]
  refine Finset.sum_congr rfl fun i _ => ?_
  rw [BitVec.getLsbD_xor]
  cases a.getLsbD i <;> cases b.getLsbD i <;> simp [CharTwo.add_self_eq_zero]

/-- A shift multiplies by x and drops the term x^8. -/
theorem bytePoly_shiftLeft (c : Byte) :
    bytePoly (c <<< 1) + (if c.getLsbD 7 then X ^ 8 else 0) = bytePoly c * X := by
  unfold bytePoly
  have hlow : ∀ i ∈ Finset.range 7, (if (c <<< 1).getLsbD (i + 1) then X ^ (i + 1) else 0 : (ZMod 2)[X]) =
      (if c.getLsbD i then X ^ i else 0) * X := fun i hi => by
    have hi' : i + 1 < 8 := Nat.succ_lt_succ (Finset.mem_range.1 hi)
    rw [ite_mul, zero_mul, ← pow_succ, BitVec.getLsbD_shiftLeft]
    simp [hi']
  rw [Finset.sum_range_succ', Finset.sum_congr rfl hlow, Finset.sum_range_succ _ 7, add_mul, Finset.sum_mul, ite_mul,
    zero_mul, ← pow_succ, BitVec.getLsbD_shiftLeft]
  simp

theorem bytePoly_crcPoly : bytePoly Config.crcPoly = X ^ 2 + X + 1 := by
  have horder : (1 + X + X ^ 2 : (ZMod 2)[X]) = X ^ 2 + X + 1 := by ring
  simpa [bytePoly, Finset.sum_range_succ] using horder

/-- One bit step is multiplication by x modulo the generator (R100, R103). -/
theorem crcGenerator_dvd_bitStep (c : Byte) : crcGenerator ∣ bytePoly c * X - bytePoly (crcBitStep c) := by
  rw [crcBitStep_eq_xor, bytePoly_xor, ← bytePoly_shiftLeft]
  cases c.getLsbD 7 with
  | false => simp [bytePoly]
  | true =>
    refine dvd_of_eq ?_
    rw [if_pos rfl, if_pos rfl, bytePoly_crcPoly, add_sub_add_left_eq_sub, CharTwo.sub_eq_add, crcGenerator]
    ring

theorem crcGenerator_dvd_bitStep_iterate (n : Nat) (c : Byte) :
    crcGenerator ∣ bytePoly c * X ^ n - bytePoly (crcBitStep^[n] c) := by
  induction n with
  | zero => simp
  | succ n ih =>
    rw [Function.iterate_succ_apply']
    have hstep := dvd_add (ih.mul_right X) (crcGenerator_dvd_bitStep (crcBitStep^[n] c))
    convert hstep using 1
    ring

theorem messagePoly_concat (d : List Byte) (b : Byte) : messagePoly (d ++ [b]) = messagePoly d * X ^ 8 + bytePoly b :=
  List.foldl_concat ..

/-- The register is congruent to the message times x^8. -/
theorem crcGenerator_dvd_message (d : List Byte) : crcGenerator ∣ messagePoly d * X ^ 8 - bytePoly (crc8 d) := by
  induction d using List.reverseRecOn with
  | nil => simp [messagePoly, bytePoly, crc8]
  | append_singleton d b ih =>
    have hbyte := crcGenerator_dvd_bitStep_iterate 8 (crc8 d ^^^ b)
    rw [bytePoly_xor] at hbyte
    rw [messagePoly_concat, crc8_concat, crcByteStep]
    convert dvd_add (ih.mul_right (X ^ 8)) hbyte using 1
    ring

/-- Settles O7: the register is congruent to the message times x^8, and its degree is below the generator's. -/
theorem crc8IsPolynomialRemainder : Obligations.Crc8IsPolynomialRemainder := by
  refine ⟨fun data => ?_, by decide +kernel⟩
  calc messagePoly data * X ^ 8 %ₘ crcGenerator
    _ = bytePoly (crc8 data) %ₘ crcGenerator :=
      modByMonic_eq_of_dvd_sub crcGenerator_monic (crcGenerator_dvd_message data)
    _ = bytePoly (crc8 data) := by
      rw [modByMonic_eq_self_iff crcGenerator_monic, degree_crcGenerator]
      exact bytePoly_degree_lt _

end Sys2Proof.Machine
end

section
/-! Lines that issue a request (30_encoding.md R73, R77; 20_memory.md R51): the result is a function of SCALE_PRODUCT
and the request (`requestResult`), and a step writes it to its variable or is refused. -/
namespace Sys2Proof.Machine

/-- The result of a request that completes: its operation's, or ILLEGAL_OP for a reserved select (R73, R204). -/
def requestResult (mode : ScaleProduct) (r : Request) : Result :=
  match decodeRequest r with
  | .ok i => operationResult mode i
  | .error _ => .error .illegalOp

theorem runRequest_of_wellFormed {r : Request} (hwf : r.wellFormed = true) (p : Setup) (d : Nat) (m : Live) :
    runRequest p d r m =
      .next { m with vars := tblSet m.vars d (requestResult p.scaleProduct r), out := none, pc := m.pc + 1 } := by
  rcases Nat.lt_or_ge r.op 5 with hop | hop
  · obtain ⟨i, hdecode, -⟩ := decodeRequest_of_wellFormed hwf hop
    rw [runRequest_of_decode hdecode, exec_eq_complete, retireOutcome_complete, requestResult, hdecode]
  · have hreserved := decodeRequest_of_op_reserved (op_reserved_of_wellFormed hwf hop)
    rw [runRequest_of_reserved hreserved, retireOutcome_complete, requestResult, hreserved]

theorem step_request {s : State} {d : Nat} {r : Request} (hline : s.program[s.pc]? = some (.request d r))
    (hwf : r.wellFormed = true) :
    step s = .next { s with
      vars := tblSet s.vars d (requestResult s.scaleProduct r), out := none, pc := s.pc + 1 } := by
  rw [step_of_line _ hline, runAction, runRequest_of_wellFormed hwf]
  rfl

/-- Settles O38: the decoder rejects the request under a name other than the reserved one. -/
theorem unrepresentableOperandRefused : Obligations.UnrepresentableOperandRefused := by
  intro s dest r hline hwf
  obtain ⟨why, hdecode, hwhy⟩ := decodeRequest_of_not_wellFormed hwf
  refine ⟨why, ?_⟩
  rw [step_of_line _ hline, runAction, runRequest_of_not_admitted hdecode hwhy]
  rfl

section
variable {α : Type} {t : Tbl α} {k i : Nat} {u v : α}

theorem tblSet_of_lt (h : i < k) : tblSet ((k, u) :: t) i v = (i, v) :: (k, u) :: t := if_pos h

theorem tblSet_head : tblSet ((k, u) :: t) k v = (k, v) :: t := (if_neg (lt_irrefl k)).trans (if_pos rfl)

theorem tblSet_of_gt (h : k < i) : tblSet ((k, u) :: t) i v = (k, u) :: tblSet t i v :=
  (if_neg h.not_gt).trans (if_neg h.ne')

end

/-- Writes of different keys may be exchanged: the lesser key is met first in either order. -/
theorem tblSet_comm {α : Type} (t : Tbl α) {i j : Nat} (h : i ≠ j) (v w : α) :
    tblSet (tblSet t i v) j w = tblSet (tblSet t j w) i v := by
  wlog hij : i < j generalizing i j v w
  · exact (this h.symm w v (h.lt_or_gt.resolve_left hij)).symm
  induction t with
  | nil => exact (tblSet_of_gt hij).trans (tblSet_of_lt hij).symm
  | cons e t ih =>
    obtain ⟨k, u⟩ := e
    rcases lt_trichotomy i k with hik | rfl | hik
    · rw [tblSet_of_lt hik, tblSet_of_gt hij]
      rcases lt_trichotomy j k with hjk | rfl | hjk
      · rw [tblSet_of_lt hjk, tblSet_of_lt hij]
      · rw [tblSet_head, tblSet_of_lt hij]
      · rw [tblSet_of_gt hjk, tblSet_of_lt hik]
    · rw [tblSet_head, tblSet_of_gt hij, tblSet_of_gt hij, tblSet_head]
    · rw [tblSet_of_gt hik, tblSet_of_gt (hik.trans hij), tblSet_of_gt (hik.trans hij), tblSet_of_gt hik, ih]

theorem run_succ_of_step {s t : State} (h : step s = .next t) (k : Nat) :
    Host.Core.run core (k + 1) s = Host.Core.run core k t := by
  have hcore : core.step s = .next t := h
  simp only [Host.Core.run, hcore]

/-- Two requests run from the start of a program that is these two lines. -/
theorem run_two_requests {s : State} {d d' : Nat} {r r' : Request} (hwf : r.wellFormed = true)
    (hwf' : r'.wellFormed = true) :
    Host.Core.run core 2 { s with program := [.request d r, .request d' r'], pc := 0 } =
      .next { s with
        program := [.request d r, .request d' r']
        pc := 2
        vars := tblSet (tblSet s.vars d (requestResult s.scaleProduct r)) d' (requestResult s.scaleProduct r')
        out := none } :=
  (run_succ_of_step (step_request rfl hwf) 1).trans (run_succ_of_step (step_request rfl hwf') 0)

/-- Settles O40: each order writes the same two results, and the writes may be exchanged. -/
theorem adjacentRequestsCommute : Obligations.AdjacentRequestsCommute := by
  intro s d d' r r' hd hwf hwf' _
  exact ⟨_, _, run_two_requests hwf hwf', run_two_requests hwf' hwf, tblSet_comm s.vars hd _ _⟩

/-- Settles O42: the line is the request of DECODE on the variable's frame, which decodes to that operation. -/
theorem decodeOfVariable : Obligations.DecodeOfVariable := by
  intro s dest src f hline hsrc
  have hrun : runDecodeVar s.toSetup dest src s.toLive =
      runRequest s.toSetup dest (encodeRequest (.decode f)) s.toLive := by
    simp only [runDecodeVar, hsrc, resultBytes]
  rw [step_of_line _ hline, runAction, hrun, runRequest_of_decode (requestEncodingRoundTrip _), exec_eq_complete,
    retireOutcome_complete, operationResult]
  cases decodeFrame f with
  | ok p => rfl
  | error e => rfl

end Sys2Proof.Machine
end

section
/-! What a step can do, said once (10_state.md R22; 60_exceptions.md R205, R213, R217): past the end the host exits; a
request writes one result (`runRequest_eq_next`, `runDecodeVar_next`); a transport line writes at most its own channel,
and that only in the ways of `ChannelUpdate` (`runAction_transport_next`). -/
namespace Sys2Proof.Machine

/-- A step is the host's exit or the action of the line at the index; the parameters stay. -/
theorem step_cases {s t : State} (h : step s = .next t) :
    (s.program[s.pc]? = none ∧ t = ⟨s.toSetup, hostExit s.toLive⟩) ∨
    ∃ a n, s.program[s.pc]? = some a ∧ runAction s.toSetup a s.toLive = .next n ∧ t = ⟨s.toSetup, n⟩ := by
  cases hline : s.program[s.pc]? with
  | none =>
    cases (step_of_end hline).symm.trans h
    exact .inl ⟨rfl, rfl⟩
  | some a =>
    have hsetup : t.toSetup = s.toSetup := (step_next h).2
    exact .inr ⟨a, t.toLive, rfl, runAction_of_step hline h, by rw [← hsetup]⟩

theorem runRequest_eq_next {p : Setup} {d : Nat} {r : Request} {m n : Live} (h : runRequest p d r m = .next n) :
    n = { m with vars := tblSet m.vars d (requestResult p.scaleProduct r), out := none, pc := m.pc + 1 } := by
  cases hwf : r.wellFormed with
  | true =>
    rw [runRequest_of_wellFormed hwf] at h
    cases h
    rfl
  | false =>
    obtain ⟨why, hdecode, hwhy⟩ := decodeRequest_of_not_wellFormed hwf
    rw [runRequest_of_not_admitted hdecode hwhy] at h
    cases h

/-- The channel whose transport a line deals with. -/
def transportOf : HostAction → Option Nat
  | .request _ _ | .decodeVar _ _ => none
  | .openChannel ch | .wait ch _ | .send ch _ | .receive ch _ | .transportError ch | .closeChannel ch => some ch

/-- A line that is no transport line writes one result, the result of some request. -/
theorem runAction_request_next {p : Setup} {a : HostAction} {m n : Live} (ha : transportOf a = none)
    (h : runAction p a m = .next n) :
    ∃ d r, n = { m with vars := tblSet m.vars d (requestResult p.scaleProduct r), out := none, pc := m.pc + 1 } := by
  cases a with
  | request d r => exact ⟨d, r, runRequest_eq_next h⟩
  | decodeVar d src =>
    obtain ⟨f, -, hreq⟩ := runDecodeVar_next h
    exact ⟨d, _, runRequest_eq_next hreq⟩
  | _ => cases ha

/-- What a line other than an opening can make of its channel's record. -/
inductive ChannelUpdate (old : Channel) : Channel → Prop
  | waited (time : Nat) : old.session = .active → ChannelUpdate old { old with waited := old.waited + time }
  | sent (f : List Byte) : old.session = .active → ChannelUpdate old { old with sent := old.sent ++ f }
  | received (b : Byte) : old.session = .active → ChannelUpdate old (receiveByte old b)
  | ended (how : Session) : how ≠ .active → ChannelUpdate old (endSession how old)

/-- A transport line opens its channel, updates its record, or only moves the index. -/
theorem runAction_transport_next {p : Setup} {a : HostAction} {ch : Nat} {m n : Live} (ha : transportOf a = some ch)
    (h : runAction p a m = .next n) :
    n = m.advance ∨
    (a = .openChannel ch ∧ n = (m.putChannel ch (openedChannel (tblFind m.channels ch))).advance) ∨
    ∃ old c, tblFind m.channels ch = some old ∧ ChannelUpdate old c ∧ n = (m.putChannel ch c).advance := by
  have hrelease {how : Session} (hhow : how ≠ .active) (h : releaseTransport how ch m = .next n) :
      n = m.advance ∨ ∃ old c, tblFind m.channels ch = some old ∧ ChannelUpdate old c ∧
        n = (m.putChannel ch c).advance := by
    obtain ⟨-, heq⟩ | ⟨old, hold, heq⟩ := releaseTransport_next how ch m <;> cases heq.symm.trans h
    · exact .inl rfl
    · exact .inr ⟨old, _, hold, .ended how hhow, rfl⟩
  cases a with
  | request d r => cases ha
  | decodeVar d src => cases ha
  | openChannel k =>
    cases ha
    exact .inr (.inl ⟨rfl, (openTransport_next h).2⟩)
  | wait k time =>
    cases ha
    obtain ⟨old, hold, hactive, rfl⟩ := onOpenChannel_next h
    exact .inr (.inr ⟨old, _, hold, .waited time hactive, rfl⟩)
  | send k src =>
    cases ha
    obtain ⟨-, rfl⟩ | ⟨f, old, -, hold, hactive, rfl⟩ := sendFrame_next h
    · exact .inl rfl
    · exact .inr (.inr ⟨old, _, hold, .sent f hactive, rfl⟩)
  | receive k b =>
    cases ha
    obtain ⟨old, hold, hactive, rfl⟩ := onOpenChannel_next h
    exact .inr (.inr ⟨old, _, hold, .received b hactive, rfl⟩)
  | transportError k => cases ha; exact (hrelease (how := .failed) nofun h).imp_right .inr
  | closeChannel k => cases ha; exact (hrelease (how := .closed) nofun h).imp_right .inr

/-- A transport line leaves the variables, the interface and every other channel. -/
theorem runAction_transport_frame {p : Setup} {a : HostAction} {ch : Nat} {m n : Live} (ha : transportOf a = some ch)
    (h : runAction p a m = .next n) :
    n.vars = m.vars ∧ n.out = m.out ∧ ∀ k, k ≠ ch → tblFind n.channels k = tblFind m.channels k := by
  obtain rfl | ⟨-, rfl⟩ | ⟨_, _, -, -, rfl⟩ := runAction_transport_next ha h
  · exact ⟨rfl, rfl, fun _ _ => rfl⟩
  · exact ⟨rfl, rfl, fun _ hk => tblFind_tblSet_ne _ _ hk⟩
  · exact ⟨rfl, rfl, fun _ hk => tblFind_tblSet_ne _ _ hk⟩

/-- Settles O48: a request writes one entry of the variable table, a transport line one of the channel table. -/
theorem blockAndTransportApart : Obligations.BlockAndTransportApart := by
  intro s t a hline h
  have hrun := runAction_of_step hline h
  cases a with
  | request dest r =>
    have heq := runRequest_eq_next hrun
    simp only [heq]
    exact ⟨trivial, fun v hv => tblFind_tblSet_ne _ _ hv⟩
  | decodeVar dest src =>
    obtain ⟨f, -, hreq⟩ := runDecodeVar_next hrun
    simp only [runRequest_eq_next hreq]
    exact ⟨trivial, fun v hv => tblFind_tblSet_ne _ _ hv⟩
  | openChannel ch => exact runAction_transport_frame rfl hrun
  | wait ch time => exact runAction_transport_frame rfl hrun
  | send ch src => exact runAction_transport_frame rfl hrun
  | receive ch b => exact runAction_transport_frame rfl hrun
  | transportError ch => exact runAction_transport_frame rfl hrun
  | closeChannel ch => exact runAction_transport_frame rfl hrun

end Sys2Proof.Machine
end

section
/-! Transport lines one by one (44_reframer.md R180, R181, R189; 60_exceptions.md R205, R213, R217;
70_reset_and_hazards.md R232 to R235). -/
namespace Sys2Proof.Machine

/-! ### Sessions -/

theorem endSession_of_active {c : Channel} (h : c.session = .active) (how : Session) :
    endSession how c = { c with session := how } := if_pos h

theorem endSession_of_inactive {c : Channel} (h : c.session ≠ .active) (how : Session) : endSession how c = c :=
  if_neg h

theorem endSession_inactive {how : Session} (hhow : how ≠ .active) (c : Channel) :
    (endSession how c).session ≠ .active := by
  by_cases h : c.session = .active
  · rwa [endSession_of_active h]
  · rwa [endSession_of_inactive h]

/-- Only an opening brings a session to life. -/
theorem ChannelUpdate.inactive {old c : Channel} (h : ChannelUpdate old c) (hold : old.session ≠ .active) :
    c.session ≠ .active := by
  cases h with
  | waited time hactive => exact absurd hactive hold
  | sent f hactive => exact absurd hactive hold
  | received b hactive => exact absurd hactive hold
  | ended how hhow => exact endSession_inactive hhow old

/-- Being active is a matter of the channel's own entry. -/
theorem not_sessionActive_of_find {s t : State} {ch : Nat} (h : ¬ SessionActive s ch)
    (hfind : tblFind t.channels ch = tblFind s.channels ch) : ¬ SessionActive t ch := by
  rintro ⟨c, hc, hactive⟩
  exact h ⟨c, hfind ▸ hc, hactive⟩

theorem not_sessionActive_hostExit (p : Setup) (m : Live) (ch : Nat) : ¬ SessionActive ⟨p, hostExit m⟩ ch := by
  rintro ⟨c, hc, hactive⟩
  rw [hostExit_channels, tblFind_tblMap, Option.map_eq_some_iff] at hc
  obtain ⟨old, -, rfl⟩ := hc
  exact endSession_inactive (how := .closed) nofun old hactive

section
variable {s : State} {ch : Nat}

theorem onOpenChannel_of_not_sessionActive (h : ¬ SessionActive s ch) (f : Channel → Channel) :
    onOpenChannel ch f s.toLive = .refused .channelNotOpen :=
  onOpenChannel_refused fun c hc hactive => h ⟨c, hc, hactive⟩

/-- A step that runs a transport action needing an open channel is refused without one. -/
theorem step_refused_of_not_sessionActive {a : HostAction} (h : ¬ SessionActive s ch)
    (hline : s.program[s.pc]? = some a)
    (ha : (∃ time, a = .wait ch time) ∨ (∃ b, a = .receive ch b) ∨
      ∃ src f, a = .send ch src ∧ tblFind s.vars src = some (.ok (.frame f))) :
    step s = .refused .channelNotOpen := by
  have hrefused := onOpenChannel_of_not_sessionActive h
  rw [step_of_line _ hline]
  obtain ⟨time, rfl⟩ | ⟨b, rfl⟩ | ⟨src, f, rfl, hsrc⟩ := ha
  · rw [runAction, waitTime, hrefused]; rfl
  · rw [runAction, receiveOn, hrefused]; rfl
  · rw [runAction, sendFrame_of_frame hsrc, hrefused]; rfl

theorem not_sessionActive_step {t : State} (h : ¬ SessionActive s ch) (hstep : step s = .next t)
    (hline : s.program[s.pc]? ≠ some (.openChannel ch)) : ¬ SessionActive t ch := by
  obtain ⟨-, rfl⟩ | ⟨a, n, ha, hrun, rfl⟩ := step_cases hstep
  · exact not_sessionActive_hostExit _ _ ch
  · cases htransport : transportOf a with
    | none =>
      obtain ⟨_, _, rfl⟩ := runAction_request_next htransport hrun
      exact not_sessionActive_of_find h rfl
    | some k =>
      by_cases hk : ch = k
      · subst hk
        obtain rfl | ⟨rfl, -⟩ | ⟨old, c, hold, hupdate, rfl⟩ := runAction_transport_next htransport hrun
        · exact not_sessionActive_of_find h rfl
        · exact absurd ha hline
        · rintro ⟨c', hc', hactive⟩
          cases (tblFind_tblSet_self s.channels ch c).symm.trans hc'
          exact hupdate.inactive (fun hact => h ⟨old, hold, hact⟩) hactive
      · obtain ⟨-, -, hframe⟩ := runAction_transport_frame htransport hrun
        exact not_sessionActive_of_find h (hframe ch hk)

end

/-- Settles O51: an action on an open channel is refused without a session, and no update makes one. -/
theorem inactiveChannelRefusesUntilOpened : Obligations.InactiveChannelRefusesUntilOpened := fun _ _ h =>
  ⟨fun _ hline ha => step_refused_of_not_sessionActive h hline ha,
   fun _ hstep hline => not_sessionActive_step h hstep hline⟩

/-- Settles O44: the line writes the channel's record after one SERVICE. -/
theorem receiveServicesItsChannel : Obligations.ReceiveServicesItsChannel := by
  intro s ch b c hline hc hactive
  have hstep := step_of_line _ hline
  rw [runAction, receiveOn, onOpenChannel_of_active hc hactive] at hstep
  exact ⟨_, hstep, rfl, tblFind_tblSet_self s.channels ch _, fun _ hk => tblFind_tblSet_ne s.channels _ hk⟩

theorem releaseTransport_of_active {ch : Nat} {c : Channel} {m : Live} (hc : tblFind m.channels ch = some c)
    (hactive : c.session = .active) (how : Session) :
    releaseTransport how ch m = .next (m.putChannel ch { c with session := how }).advance := by
  simp only [releaseTransport, hc, endSession_of_active hactive]

/-- Settles O46: both lines are a release, which writes the session alone; the receive then finds it ended. -/
theorem sessionEndReleasesTheTransport : Obligations.SessionEndReleasesTheTransport := by
  intro s ch c how hline hc hactive
  have hstep : step s = underSetup s.toSetup (releaseTransport how ch s.toLive) := by
    obtain ⟨hline, rfl⟩ | ⟨hline, rfl⟩ := hline <;> exact step_of_line _ hline
  have hhow : how ≠ .active := by
    obtain ⟨-, rfl⟩ | ⟨-, rfl⟩ := hline <;> decide
  rw [releaseTransport_of_active hc hactive] at hstep
  have hfind := tblFind_tblSet_self s.channels ch { c with session := how }
  refine ⟨_, hstep, rfl, hfind, fun _ hk => tblFind_tblSet_ne s.channels _ hk, fun b hnext => ?_⟩
  refine step_refused_of_not_sessionActive (ch := ch) ?_ hnext (.inr (.inl ⟨b, rfl⟩))
  rintro ⟨c', hc', hactive'⟩
  cases hfind.symm.trans hc'
  exact hhow hactive'

theorem openTransport_of_settings {p : Setup} {ch : Nat} {params : HostParams}
    (h : tblFind p.transports ch = some params) (m : Live) :
    openTransport p ch m = .next (m.putChannel ch (openedChannel (tblFind m.channels ch))).advance := by
  simp only [openTransport, h]

theorem openTransport_of_no_settings {p : Setup} {ch : Nat} (h : tblFind p.transports ch = none) (m : Live) :
    openTransport p ch m = .refused .noTransportSettings := by
  simp only [openTransport, h]

theorem step_openChannel {s : State} {ch : Nat} {params : HostParams}
    (hline : s.program[s.pc]? = some (.openChannel ch)) (hparams : tblFind s.transports ch = some params) :
    step s = .next { s with
      channels := tblSet s.channels ch (openedChannel (tblFind s.channels ch)), pc := s.pc + 1 } := by
  rw [step_of_line _ hline, runAction, openTransport_of_settings hparams]
  rfl

theorem step_wait {s : State} {ch time : Nat} {c : Channel} (hline : s.program[s.pc]? = some (.wait ch time))
    (hc : tblFind s.channels ch = some c) (hactive : c.session = .active) :
    step s = .next { s with
      channels := tblSet s.channels ch { c with waited := c.waited + time }, pc := s.pc + 1 } := by
  rw [step_of_line _ hline, runAction, waitTime, onOpenChannel_of_active hc hactive]
  rfl

/-- Settles O45: the opening writes a fresh record, and the wait counts from 0 on it. -/
theorem openingStartsEmptyAndWaits : Obligations.OpeningStartsEmptyAndWaits := by
  constructor
  · intro s ch time params hopen hwait hparams
    have hopened := tblFind_tblSet_self s.channels ch (openedChannel (tblFind s.channels ch))
    have hstep := step_openChannel hopen hparams
    have hstep' := step_wait (s := { s with channels := tblSet s.channels ch _, pc := s.pc + 1 }) hwait hopened rfl
    rw [show (openedChannel (tblFind s.channels ch)).waited + time = time from Nat.zero_add time] at hstep'
    refine ⟨_, _, openedChannel (tblFind s.channels ch), hstep, hstep', rfl, rfl, hopened, rfl,
      tblFind_tblSet_self _ ch _, fun k hk => ?_, fun hdelay src params' c' hparams' hc' => ?_⟩
    · have hframe := tblFind_tblSet_ne s.channels (openedChannel (tblFind s.channels ch)) hk
      exact ⟨hframe, (tblFind_tblSet_ne _ _ hk).trans hframe⟩
    · cases hparams.symm.trans hparams'
      cases (tblFind_tblSet_self _ ch _).symm.trans hc'
      exact hdelay
  · intro s ch hline hnone
    rw [step_of_line _ hline, runAction, openTransport_of_no_settings hnone]
    rfl

theorem endSession_endSession {how : Session} (hhow : how ≠ .active) (c : Channel) :
    endSession how (endSession how c) = endSession how c :=
  endSession_of_inactive (endSession_inactive hhow c) how

theorem hostExit_hostExit (m : Live) : hostExit (hostExit m) = hostExit m := by
  have hmap : tblMap (endSession .closed) (tblMap (endSession .closed) m.channels) =
      tblMap (endSession .closed) m.channels := by
    rw [tblMap, tblMap, List.map_map]
    exact List.map_congr_left fun e _ => congrArg (Prod.mk e.1) (endSession_endSession (how := .closed) nofun e.2)
  rw [hostExit, hostExit_channels, hmap]
  rfl

/-- Settles O52: the host's exit ends every session, and ending an ended session changes nothing. -/
theorem hostExitReleasesEveryTransport : Obligations.HostExitReleasesEveryTransport := by
  intro s hend
  refine ⟨_, step_of_end hend, rfl, fun ch => tblFind_tblMap _ _ ch, not_sessionActive_hostExit _ _, ?_⟩
  rw [step_of_end (s := ⟨s.toSetup, hostExit s.toLive⟩) hend, hostExit_hostExit]

theorem resultBytes_eq_none {v : Value} (h : ∀ f, v ≠ .frame f) : resultBytes (.ok v) = none := by
  cases v with
  | frame f => exact absurd rfl (h f)
  | _ => rfl

/-- Settles O53: both lines look their variable up first, and then for bytes in its result. -/
theorem readsWithoutResultRefused : Obligations.ReadsWithoutResultRefused := by
  intro s dest src ch
  refine ⟨fun hline => ⟨fun hnone => ?_, fun v hv hbytes => ?_⟩, fun hline e he => ?_⟩
  · obtain hline | hline := hline <;> rw [step_of_line _ hline, runAction]
    · simp only [runDecodeVar, hnone, underSetup]
    · simp only [sendFrame, hnone, underSetup]
  · have hnone := resultBytes_eq_none hbytes
    obtain hline | hline := hline <;> rw [step_of_line _ hline, runAction]
    · simp only [runDecodeVar, hv, hnone, underSetup]
    · simp only [sendFrame, hv, hnone, underSetup]
  · rw [step_of_line _ hline, runAction]
    simp only [runDecodeVar, he, resultBytes, underSetup]

end Sys2Proof.Machine
end

section
/-! The machine's invariant (10_state.md sections 1 and 2; 42_packet_encoder.md R142; 44_reframer.md R182): what the
operations put into variables and what the lines put into channels is good, and the tables keep their form. -/
namespace Sys2Proof.Machine

/-! ### Good results and good channels -/

theorem resultGood_frame {mode : ScaleProduct} {cmd : Byte} {fval : F64} {flag : Bool} {f : List Byte}
    (h : encodeFrame mode cmd fval flag = .ok f) : resultGood (.ok (.frame f)) = true := by
  obtain ⟨fx, -, rfl⟩ := encodeFrame_ok h
  rw [resultGood, validFrame_buildFrame]
  cases flag with
  | false => rfl
  | true => rfl

/-- The packet of a frame has the value that its fixed-point value stands for (R27). -/
theorem packet_agrees {f : List Byte} {p : Packet} (h : decodeFrame f = .ok p) : p.value = scaleDecode p.valueFx := by
  obtain ⟨-, rfl⟩ := decodeFrame_eq_ok_iff.1 h
  rfl

theorem resultGood_operationResult (mode : ScaleProduct) (i : Instr) : resultGood (operationResult mode i) = true := by
  cases i with
  | crc8 data => rfl
  | scaleDec fx => rfl
  | scaleEnc fval => rw [operationResult]; cases scaleEncode mode fval <;> rfl
  | encode cmd fval flag =>
    rw [operationResult]
    cases h : encodeFrame mode cmd fval flag with
    | ok f => exact resultGood_frame h
    | error e => rfl
  | decode buf =>
    rw [operationResult]
    cases h : decodeFrame buf with
    | ok p => exact beq_iff_eq.2 (packet_agrees h)
    | error e => rfl

theorem resultGood_requestResult (mode : ScaleProduct) (r : Request) : resultGood (requestResult mode r) = true := by
  unfold requestResult
  split
  · exact resultGood_operationResult mode _
  · rfl

theorem channelGood_iff {c : Channel} :
    channelGood c = true ↔
      (c.rbuf.length < 9 ∧ (c.rbuf = [] ∨ c.rbuf.head? = some Config.sof)) ∧
      ∀ p ∈ c.delivered, p.value = scaleDecode p.valueFx := by
  simp only [channelGood, bufferWaiting, Bool.and_eq_true, Bool.or_eq_true, decide_eq_true_eq, List.isEmpty_iff,
    beq_iff_eq, List.all_eq_true]

/-- A received byte leaves the re-framer waiting, and every packet it delivers is a frame's. -/
theorem channelGood_receiveByte {c : Channel} (h : channelGood c = true) (b : Byte) :
    channelGood (receiveByte c b) = true := by
  obtain ⟨-, hdelivered⟩ := channelGood_iff.1 h
  refine channelGood_iff.2 ⟨service_waits _, fun p hp => ?_⟩
  rcases List.mem_append.1 hp with hp | hp
  · exact hdelivered p hp
  · obtain ⟨f, hf⟩ := exists_frame_of_mem_service hp
    exact packet_agrees hf

theorem channelGood_endSession {c : Channel} (h : channelGood c = true) (how : Session) :
    channelGood (endSession how c) = true := by
  unfold endSession
  split_ifs
  · exact h
  · exact h

theorem ChannelUpdate.good {old c : Channel} (h : ChannelUpdate old c) (hold : channelGood old = true) :
    channelGood c = true := by
  cases h with
  | waited time hactive => exact hold
  | sent f hactive => exact hold
  | received b hactive => exact channelGood_receiveByte hold b
  | ended how hhow => exact channelGood_endSession hold how

/-- An opened channel has an empty buffer and the packets that were on record (R180, log entry 12). -/
theorem channelGood_openedChannel {old : Option Channel} (h : ∀ c, old = some c → channelGood c = true) :
    channelGood (openedChannel old) = true := by
  cases old with
  | none => rfl
  | some c =>
    obtain ⟨-, hdelivered⟩ := channelGood_iff.1 (h c rfl)
    exact channelGood_iff.2 ⟨⟨Nat.zero_lt_succ 8, .inl rfl⟩, hdelivered⟩

/-! ### Tables -/

theorem all_tblSet {α : Type} {good : α → Bool} {t : Tbl α} (h : t.all (fun e => good e.2) = true) {v : α}
    (hv : good v = true) (i : Nat) : (tblSet t i v).all (fun e => good e.2) = true := by
  rw [List.all_eq_true] at h ⊢
  intro e he
  rcases mem_tblSet he with rfl | he
  · exact hv
  · exact h e he

theorem good_of_tblFind {α : Type} {good : α → Bool} {t : Tbl α} (h : t.all (fun e => good e.2) = true) {i : Nat}
    {v : α} (hv : tblFind t i = some v) : good v = true :=
  List.all_eq_true.1 h _ (mem_of_tblFind hv)

/-! ### The invariant -/

section
variable {s : State} (h : MachineInv s)
include h

theorem MachineInv.hostExit : MachineInv ⟨s.toSetup, hostExit s.toLive⟩ :=
  { h with
    channelsCanonical := (tblMap_wf _ _).trans h.channelsCanonical
    channelsGood := by
      have hgood := List.all_eq_true.1 h.channelsGood
      rw [hostExit_channels, tblMap, List.all_map]
      exact List.all_eq_true.2 fun e he => channelGood_endSession (hgood e he) .closed }

variable (hpc : s.pc < s.program.length)
include hpc

theorem MachineInv.advance : MachineInv ⟨s.toSetup, s.toLive.advance⟩ :=
  { h with indexInProgram := hpc }

theorem MachineInv.putResult (d : Nat) {r : Result} (hr : resultGood r = true) :
    MachineInv { s with vars := tblSet s.vars d r, out := none, pc := s.pc + 1 } :=
  { h with
    noResultInFlight := rfl
    indexInProgram := hpc
    varsCanonical := tblSet_wf d r h.varsCanonical
    resultsGood := all_tblSet h.resultsGood hr d }

theorem MachineInv.putChannel (ch : Nat) {c : Channel} (hc : channelGood c = true) :
    MachineInv ⟨s.toSetup, (s.toLive.putChannel ch c).advance⟩ :=
  { h with
    indexInProgram := hpc
    channelsCanonical := tblSet_wf ch c h.channelsCanonical
    channelsGood := all_tblSet h.channelsGood hc ch }

theorem MachineInv.runAction {a : HostAction} {n : Live} (hrun : runAction s.toSetup a s.toLive = .next n) :
    MachineInv ⟨s.toSetup, n⟩ := by
  cases htransport : transportOf a with
  | none =>
    obtain ⟨d, r, rfl⟩ := runAction_request_next htransport hrun
    exact h.putResult hpc d (resultGood_requestResult _ r)
  | some ch =>
    obtain rfl | ⟨-, rfl⟩ | ⟨old, c, hold, hupdate, rfl⟩ := runAction_transport_next htransport hrun
    · exact h.advance hpc
    · exact h.putChannel hpc ch (channelGood_openedChannel fun c hc => good_of_tblFind h.channelsGood hc)
    · exact h.putChannel hpc ch (hupdate.good (good_of_tblFind h.channelsGood hold))

end

/-- Settles O49: the host's exit and every line keep each clause of the invariant. -/
theorem stepKeepsInvariant : Obligations.StepKeepsInvariant := by
  intro s t h hstep
  obtain ⟨-, rfl⟩ | ⟨a, n, hline, hrun, rfl⟩ := step_cases hstep
  · exact h.hostExit
  · exact h.runAction (List.getElem?_eq_some_iff.1 hline).1 hrun

/-- Settles O50: every table of the reset state is empty. -/
theorem resetState : Obligations.ResetState :=
  ⟨⟨rfl, le_rfl, rfl, rfl, rfl, rfl, rfl⟩, rfl, fun _ => rfl, fun _ => rfl, rfl⟩

end Sys2Proof.Machine
end

section
/-! The fixed words and requests of 30_encoding.md R70 and 95_test_vectors.md. -/
namespace Sys2Proof

/-- Settles O34: each word and request read by the decoder. -/
theorem specWordsDecode : Obligations.SpecWordsDecode := by
  unfold Obligations.SpecWordsDecode
  decide

end Sys2Proof
end
